-- ==== Sys2Proof/Word.lean ====
section
/-! DEFINITION. The word and the address types (00_scope.md R2, R4, R8). A `W`-bit word is the natural number it stands for:
"Every value is a natural number below `2^W`" (R8), with `W` a parameter (R2). A word's type is therefore `Nat` itself; that
every word lies below `2^W` is stated once, in Sys2Proof/Safety.lean, and kept by every step (log 2). -/

namespace Sys2Proof

/-- A host bus word address: 13 bits, whatever the parameters (R4). -/
abbrev Addr := BitVec 13

end Sys2Proof
end

