-- ==== Sys2Proof/Machine/Arith.lean ====
section
/-! DEFINITION. The arithmetic of the block: exact, over the integers (00_scope.md R5 to R7). -/

namespace Sys2Proof.Machine

/-- `mod(x, q)`: the floored remainder, never negative for `q >= 1` (R6). -/
def reduce (x : Int) (q : Nat) : Nat := (x % (q : Int)).toNat

/-- `log2(n)` (R7). -/
def log2 (n : Nat) : Nat := Nat.log2 n

/-- `ispow2(n)` (R7): false for 0, true for 1. -/
def isPow2 (n : Nat) : Bool := 2 ^ log2 n == n

/-- The loop of R120, least-significant exponent bit first. `fuel` bounds its iterations; it stops when `e` is 0. -/
def modpowLoop (q : Nat) : (fuel r acc e : Nat) → Nat
  | 0, r, _, _ => r
  | fuel + 1, r, acc, e =>
    if 0 < e then
      modpowLoop q fuel (if e % 2 = 1 then reduce (r * acc : Nat) q else r) (reduce (acc * acc : Nat) q) (e / 2)
    else r

/-- `modpow(b, e, q)`, square and multiply (R120). The loop runs once per bit of `e` up to its highest 1 bit, and
`log2(e) + 1` iterations cover them. -/
def modpow (b e q : Nat) : Nat := modpowLoop q (log2 e + 1) (reduce (1 : Nat) q) (reduce b q) e

/-- What `RootTable(g, n, q)` returns (R140). -/
structure RootTable where
  nbits : Nat
  baseRoot : Nat
  table : List Nat
deriving DecidableEq, Repr

/-- `RootTable(g, n, q)`: steps 1, 3 and 4 of the source's transform (R140). -/
def rootTable (g n q : Nat) : RootTable :=
  let nbits := log2 n
  let baseRoot := modpow g (n - 1) q
  { nbits := nbits
    baseRoot := baseRoot
    table := (List.range nbits).map fun i => modpow baseRoot (2 ^ i) q }

/-- `Butterfly(a, b, tw, q)`, over exact integers, so that the difference may be negative before it is reduced (R162). -/
def butterfly (a b tw q : Nat) : Nat × Nat :=
  (reduce ((a : Int) + tw * b) q, reduce ((a : Int) - tw * b) q)

/-- One butterfly on the working buffer, at block origin `start` and pair offset `j`: both inputs are read before either
is written (R160). -/
def butterflyAt (q root stride : Nat) (res : List Nat) (pair : Nat × Nat) : List Nat :=
  let i := pair.1 + pair.2
  let out := butterfly (res.getD i 0) (res.getD (i + stride) 0) (modpow root pair.2 q) q
  (res.set i out.1).set (i + stride) out.2

/-- The butterflies of one stage in the loop's order, each as (block origin, pair offset): origins
`0, 2*stride, 4*stride, ..., n - 2*stride`, offsets `0 .. stride - 1` (R160). -/
def stagePairs (n stride : Nat) : List (Nat × Nat) :=
  (List.range (n / (2 * stride))).flatMap fun block => (List.range stride).map fun j => (block * (2 * stride), j)

/-- One stage of R160: every butterfly of the stage, one after the other. -/
def stage (n q root stride : Nat) (res : List Nat) : List Nat :=
  (stagePairs n stride).foldl (butterflyAt q root stride) res

/-- The stage loop of R160. `left` is `stage_pointer + 1`, so that `table[stage_pointer]` is entry `left - 1` and the
pointer's last value -1 is `left = 0`; `stride < n` is the loop's only exit test. -/
def stageLoop (table : List Nat) (n q : Nat) : (left stride : Nat) → List Nat → List Nat
  | 0, _, res => res
  | left + 1, stride, res =>
    if stride < n then stageLoop table n q left (2 * stride) (stage n q (table.getD left 0) stride res) else res

/-- `ButterflyNetwork(res, table, n, q)` (R160). -/
def butterflyNetwork (res table : List Nat) (n q : Nat) : List Nat := stageLoop table n q (log2 n) 1 res

end Sys2Proof.Machine
end

