-- ==== Sys2Proof/Config.lean ====
section
/-! DEFINITION. What an implementation fixes (the parameters W and LOGN_MAX, 00_scope.md R2 and R3) and the free values
(what 10_state.md R40, 70_reset_and_hazards.md R230 and R242 leave unspecified). -/

namespace Sys2Proof

/-- The two parameters of the block (R2, R3). They are held in `State` as the constant register CFG (R20, R21). -/
structure Params where
  /-- `W`, the data word width. -/
  width : Nat
  /-- `LOGN_MAX`, the capacity parameter. -/
  logNMax : Nat
deriving DecidableEq, Repr

/-- The defaults: `W = 64` (R2) and `LOGN_MAX = 10` (R3). -/
def Params.standard : Params := { width := 64, logNMax := 10 }

/-- `N_MAX = 2^LOGN_MAX` (R3). -/
def Params.nMax (p : Params) : Nat := 2 ^ p.logNMax

/-- `2^W`: every word lies below it (R2). -/
def Params.bound (p : Params) : Nat := 2 ^ p.width

/-- FREE VALUE (log 6): what SEQ entry `k` holds after the reset numbered `epoch`, before anything writes it: "unspecified:
each entry a `draw()`, independently" (R230). No body: nothing can be proved of its value. -/
opaque Config.seqDraw (epoch k : Nat) : Nat

/-- FREE VALUE (log 7): what the `n`-th host read of an output while BUSY is 1 returns: "a fresh `draw()` for each such
read" (R242). No body: nothing can be proved of its value. -/
opaque Config.busyReadDraw (n : Nat) : Nat

end Sys2Proof
end

