-- ==== Sys2Proof/Syntax.lean ====
section
/-! DEFINITION. The command set (00_scope.md R1, 30_encoding.md R81): one constructor for each row of
spec/opcode_table.json. No command carries an operand (R83). -/

namespace Sys2Proof

/-- The three commands: "The block executes exactly three commands" (R1). -/
inductive Instr where
  /-- MODPOW, 0x01: RESULT becomes `BASE^EXP mod MOD` (R121). -/
  | modpow
  /-- PRECOMPUTE_ROOTS, 0x02: the per-stage root table (R141). -/
  | precomputeRoots
  /-- NTT_TRANSFORM, 0x03: the forward transform of SEQ in place (R161). -/
  | nttTransform
deriving DecidableEq, Repr

end Sys2Proof
end

