-- ==== Sys2Proof/WellFormed.lean ====
section
/-! DEFINITION. Checks on the terms a machine is built from: the parameters (R2, R3, R21) and a command word's two fields
(R80 to R82). A command has no operand field (R83), so every `Instr` is well-formed. -/

namespace Sys2Proof

/-- `W >= 32` (R2), `1 <= LOGN_MAX <= 12` (R3), and `W` fits CFG's 16-bit WIDTH field (R21; DEDUCED, log 1). -/
def Params.wf (p : Params) : Bool :=
  decide (32 ≤ p.width) && decide (p.width < 2 ^ 16) && decide (1 ≤ p.logNMax) && decide (p.logNMax ≤ 12)

/-- A legal command word: RSVD is 0 (R80) and OPCODE is one of the three of R81. -/
def CommandWord.wf (v : Nat) : Bool :=
  decide (v / 256 = 0) && (decide (v % 256 = 1) || decide (v % 256 = 2) || decide (v % 256 = 3))

/-- No command word carries an operand, an immediate or a register number (R83): nothing of a command can be ill-formed. -/
def Instr.wf : Instr → Bool
  | .modpow => true
  | .precomputeRoots => true
  | .nttTransform => true

end Sys2Proof
end

