-- ==== Sys2Proof/Decode.lean ====
section
/-! DEFINITION. The command word (30_encoding.md R80 to R82) and, after the decoder, the encoder written from the same
table. A command is one whole word: there are no bytes and no byte order to settle (R52, R80). -/

namespace Sys2Proof

/-- What decoding a word answers. -/
inductive Decoded where
  /-- The word is the command word of this command (R81). -/
  | command (i : Instr)
  /-- "Every other command word is illegal" (R82). -/
  | illegalCommand
deriving DecidableEq, Repr

/-- OPCODE, bits 7:0 of a command word (R80). -/
def opcodeField (v : Nat) : Nat := v % 2 ^ 8

/-- RSVD, bits W-1:8 of a command word (R80). -/
def reservedField (v : Nat) : Nat := v / 2 ^ 8

/-- The opcode map (R81). -/
def commandOfOpcode : Nat → Decoded
  | 0x01 => .command .modpow
  | 0x02 => .command .precomputeRoots
  | 0x03 => .command .nttTransform
  | _ => .illegalCommand

/-- Decoding, total on every word: a 1 in RSVD is illegal "whatever its OPCODE" (R82). -/
def decode (v : Nat) : Decoded :=
  if reservedField v = 0 then commandOfOpcode (opcodeField v) else .illegalCommand

/-- The OPCODE of each command (R81). -/
def opcodeOf : Instr → Nat
  | .modpow => 0x01
  | .precomputeRoots => 0x02
  | .nttTransform => 0x03

/-- A command word from its two fields (R80). -/
def commandWord (opcode reserved : Nat) : Nat := reserved * 2 ^ 8 + opcode

/-- The command word of a command: its OPCODE with RSVD = 0 (R80, R84). -/
def encode (i : Instr) : Nat := commandWord (opcodeOf i) 0

/-- The host's view of the decoder: the word of `nbits` bits given to `decode`, every bit above them 0. A command is one
word, so nothing has to be laid out in bytes. -/
def decodeTableWord (nbits w : Nat) : Option Instr :=
  match decode (w % 2 ^ nbits) with
  | .command i => some i
  | .illegalCommand => none

end Sys2Proof
end

