-- ==== Sys2Proof/Machine/State.lean ====
section
/-! DEFINITION. The state of the block (10_state.md R20) with the host's side of the register interface (20_memory.md R51),
the reasons a step can stop, and the state after reset (70_reset_and_hazards.md R230). -/

namespace Sys2Proof.Machine

/-- The error codes of 60_exceptions.md R200 that have a name. Codes 6 to 15 are "never raised" and have no constructor. -/
inductive ErrCode where
  /-- 0: after reset, or the last command was accepted. -/
  | none
  /-- 1: LEN is not a power of two. -/
  | invalidLength
  /-- 2: MOD < 2. -/
  | invalidModulus
  /-- 3: reserved, never raised. -/
  | invalidExponent
  /-- 4: the CMD word is not 0x01, 0x02 or 0x03. -/
  | illegalCommand
  /-- 5: LEN is a power of two greater than N_MAX. -/
  | capacityExceeded
deriving DecidableEq, Repr

/-- The stored fields of STATUS (R23). BUSY is not stored here: it "is 1 exactly when INFLIGHT is not NONE" (R24), so it is
a view of `State.inflight` (log 3). The bits above 7 are reserved and read as 0 (R29). -/
structure Status where
  /-- DONE, bit 1 (R25). -/
  done : Bool
  /-- ERR, bit 2 (R26). -/
  err : Bool
  /-- ACCV, bit 3 (R27). -/
  accv : Bool
  /-- ERRCODE, bits 7:4 (R28). -/
  errCode : ErrCode
deriving DecidableEq, Repr

/-- What can happen on the host's side: a bus transaction (R55, R56), the polling loop WAIT (R85), or the reset event
(R230). Every order of these is a list; the block's completion steps fall between them (R59). -/
inductive HostOp where
  /-- `MemRead(a, 1)` (R55). -/
  | read (a : Addr)
  /-- `MemWrite(a, 1, v)` (R56). -/
  | write (a : Addr) (v : Nat)
  /-- `WAIT`: read STATUS until the value read has BUSY = 0 (R85). -/
  | wait
  /-- The reset event (R230). -/
  | reset
deriving DecidableEq, Repr

/-- The cells of the sequence buffer SEQ (R40): (index, word), indices strictly rising (log 8). -/
abbrev Mem := List (Nat × Nat)

/-- The state: one field per row of R20's table, but CMD, which "holds no state" (R22); then the model's own fields. -/
structure State where
  /-- CFG (R21): constant. -/
  cfg : Params
  /-- STATUS (R23 to R29), less BUSY (see `inflight`). -/
  status : Status
  /-- MOD (R30), the modulus. -/
  mod : Nat
  /-- GEN (R31), the generator. -/
  gen : Nat
  /-- LEN (R32), the sequence length. -/
  len : Nat
  /-- BASE (R33), the base of MODPOW. -/
  base : Nat
  /-- EXP (R34), the exponent of MODPOW. -/
  exp : Nat
  /-- RESULT (R35). -/
  result : Nat
  /-- BASE_ROOT (R36). -/
  baseRoot : Nat
  /-- NBITS (R37). -/
  nbits : Nat
  /-- ROOT[0 .. LOGN_MAX-1] (R39). -/
  root : List Nat
  /-- SEQ[0 .. N_MAX-1] (R40): the entries written since the last reset. -/
  seq : Mem
  /-- INFLIGHT (R41): `none` is NONE. -/
  inflight : Option Instr
  /-- MODEL'S OWN (log 4): what the host does next, oldest first (R51, R59). -/
  host : List HostOp
  /-- MODEL'S OWN (log 4): while a command is in flight, whether the host moves before its completion (R105). -/
  turns : List Bool
  /-- MODEL'S OWN (log 5): `bus_rdata`, the data of the host's last read (R55, R64). -/
  rdata : Nat
  /-- MODEL'S OWN (log 6): which reset the draws of SEQ belong to (R230). -/
  resets : Nat
  /-- MODEL'S OWN (log 7): how many draws of reads made while busy were taken (R242). -/
  draws : Nat
deriving DecidableEq, Repr

/-- Why a step can stop the machine. The spec itself stops it nowhere (R202, R206). -/
inductive Fault where
  /-- Raised by the completion step of a command whose operands Validate (R106) would not have passed: the spec defines no
  value there (`modpow` is defined "only for `q >= 2`", R126). SAFE: no run reaches it, since operands cannot change while
  a command is in flight (R102, R240); log 10. -/
  | unvalidatedOperands
deriving DecidableEq, Repr

/-- Why the model gives a step no meaning. -/
inductive Refusal where
  /-- Raised by an arm of `exec` for a command not modelled yet (none is left). SAFE: the machine stops. -/
  | notModelled (mnemonic : String)
deriving DecidableEq, Repr

/-- The state right after reset (R230), with the default parameters (R2, R3). SEQ lists nothing: every entry holds its
draw. The model's own fields are chosen in logs 4 to 7. -/
def State.reset : State :=
  { cfg := Params.standard
    status := { done := false, err := false, accv := false, errCode := .none }
    mod := 0
    gen := 0
    len := 0
    base := 0
    exp := 0
    result := 0
    baseRoot := 0
    nbits := 0
    root := List.replicate Params.standard.logNMax 0
    seq := []
    inflight := none
    host := []
    turns := []
    rdata := 0
    resets := 0
    draws := 0 }

end Sys2Proof.Machine
end

