-- ==== Sys2Proof/Machine/Flags.lean ====
section
/-! DEFINITION. STATUS and CFG as words, and what each event does to the fields of STATUS (10_state.md R21, R23 to R29). -/

namespace Sys2Proof.Machine

/-- The number of an error code (60_exceptions.md R200). -/
def errNumber : ErrCode → Nat
  | .none => 0
  | .invalidLength => 1
  | .invalidModulus => 2
  | .invalidExponent => 3
  | .illegalCommand => 4
  | .capacityExceeded => 5

/-- STATUS.BUSY: "1 exactly when INFLIGHT is not NONE" (R24). Also the port `busy`, its copy (20_memory.md R64). -/
def busy (s : State) : Bool := s.inflight.isSome

/-- STATUS as the word a host reads: BUSY bit 0, DONE bit 1, ERR bit 2, ACCV bit 3, ERRCODE bits 7:4, the rest 0 (R23, R29). -/
def statusWord (s : State) : Nat :=
  (busy s).toNat + s.status.done.toNat * 2 + s.status.err.toNat * 4 + s.status.accv.toNat * 8
    + errNumber s.status.errCode * 16

/-- CFG as the word a host reads: LOGN_MAX in 7:0, WIDTH in 23:8, VERSION = 1 in 31:24 (R21). -/
def cfgWord (p : Params) : Nat := p.logNMax % 2 ^ 8 + p.width % 2 ^ 16 * 2 ^ 8 + 1 * 2 ^ 24

/-- STATUS at acceptance: DONE, ERR and ERRCODE cleared, ACCV kept (40_command_protocol.md R102). -/
def acceptedStatus (st : Status) : Status := { st with done := false, err := false, errCode := .none }

/-- STATUS at rejection: ERR set, DONE cleared, ERRCODE the code, ACCV kept (R103). -/
def rejectedStatus (st : Status) (code : ErrCode) : Status := { st with done := false, err := true, errCode := code }

/-- STATUS at completion: DONE set, the rest kept (R104). -/
def completedStatus (st : Status) : Status := { st with done := true }

/-- STATUS when a host write is dropped: ACCV set, the rest kept (R27, 70_reset_and_hazards.md R240, R241). -/
def droppedStatus (st : Status) : Status := { st with accv := true }

/-- STATUS after a host write of `v` to it: ACCV cleared when bit 3 of `v` is 1, the rest kept (R27; R24 to R26, R28, R29). -/
def writtenStatus (st : Status) (v : Nat) : Status := if v.testBit 3 then { st with accv := false } else st

end Sys2Proof.Machine
end

