-- ==== Sys2Proof/Machine/Operands.lean ====
section
/-! DEFINITION. The address map of the register interface (20_memory.md R50): what a word address names. No command carries
an operand (30_encoding.md R83), so this is the block's only addressing. -/

namespace Sys2Proof.Machine

/-- What a word address names (R50). -/
inductive Loc where
  | cfg
  | cmd
  | status
  | mod
  | gen
  | len
  | base
  | exp
  | result
  | baseRoot
  | nbits
  | root (i : Nat)
  | seq (k : Nat)
  | reserved
deriving DecidableEq, Repr

/-- The registers at 0x000 to 0x00A (R50). -/
def registerAt : Nat → Loc
  | 0x000 => .cfg
  | 0x001 => .cmd
  | 0x002 => .status
  | 0x003 => .mod
  | 0x004 => .gen
  | 0x005 => .len
  | 0x006 => .base
  | 0x007 => .exp
  | 0x008 => .result
  | 0x009 => .baseRoot
  | 0x00A => .nbits
  | _ => .reserved

/-- The map of R50. Everything it does not name is reserved (R58). -/
def locate (p : Params) (a : Addr) : Loc :=
  let n := a.toNat
  if n < 0x040 then registerAt n
  else if n < 0x040 + p.logNMax then .root (n - 0x040)
  else if 0x1000 ≤ n ∧ n < 0x1000 + p.nMax then .seq (n - 0x1000)
  else .reserved

/-- The locations whose reads return a draw while BUSY is 1 (R55, 70_reset_and_hazards.md R242). -/
def isOutput : Loc → Bool
  | .result => true
  | .baseRoot => true
  | .nbits => true
  | .root _ => true
  | .seq _ => true
  | .cfg => false
  | .cmd => false
  | .status => false
  | .mod => false
  | .gen => false
  | .len => false
  | .base => false
  | .exp => false
  | .reserved => false

/-- The address of CMD (R50). -/
def cmdAddr : Addr := 0x001#13

/-- The address of STATUS (R50). -/
def statusAddr : Addr := 0x002#13

/-- The address of ROOT[i] (R50, R84). -/
def rootAddr (i : Nat) : Addr := BitVec.ofNat 13 (0x040 + i)

/-- The address of SEQ[k] (R50, R84). -/
def seqAddr (k : Nat) : Addr := BitVec.ofNat 13 (0x1000 + k)

end Sys2Proof.Machine
end

