-- ==== Sys2Proof/Machine/Ops.lean ====
section
/-! DEFINITION. The named operations over the sequence buffer and the registers, and the command protocol
(40_command_protocol.md): Validate, Accept, Reject, the dropped write, Complete, Reset. A rejection is what this block has
in place of taking an exception (60_exceptions.md R201, R206); there is no return from one (R207). -/

namespace Sys2Proof.Machine

/-- The word a cell list holds for entry `k`. What an unlisted entry reads as is decided in ONE place, `seqRead`: here it
has no value. -/
def Mem.read : Mem → Nat → Option Nat
  | [], _ => none
  | (j, w) :: rest, k => if j = k then some w else Mem.read rest k

/-- Write entry `k`, keeping the indices strictly rising. -/
def Mem.write : Mem → Nat → Nat → Mem
  | [], k, v => [(k, v)]
  | (j, w) :: rest, k, v =>
    if k < j then (k, v) :: (j, w) :: rest
    else if k = j then (k, v) :: rest
    else (j, w) :: Mem.write rest k v

/-- The canonical form: indices strictly rising. An unlisted entry has no value of its own in the list, so no listed entry
can repeat it (log 8). -/
def Mem.wf : Mem → Bool
  | [] => true
  | (_, _) :: [] => true
  | (i, _) :: (j, w) :: rest => decide (i < j) && Mem.wf ((j, w) :: rest)

/-- SEQ[k]. An entry not written since the last reset holds its draw, "the same on every read until written" (R40, R230;
log 6), a `W`-bit word. -/
def seqRead (s : State) (k : Nat) : Nat := (s.seq.read k).getD (Config.seqDraw s.resets k % s.cfg.bound)

/-- `SEQ[k] <- v`. -/
def seqWrite (s : State) (k : Nat) (v : Nat) : State := { s with seq := s.seq.write k v }

/-- `for k in first .. : SEQ[k] <- vs[k - first]`. -/
def seqWriteAll (s : State) (first : Nat) : List Nat → State
  | [] => s
  | v :: vs => seqWriteAll (seqWrite s first v) (first + 1) vs

/-- ROOT[i] (R39). -/
def rootRead (s : State) (i : Nat) : Nat := s.root.getD i 0

/-- What an address holds, as R55 reads it when BUSY is 0: CMD and reserved addresses read as 0. -/
def peek (s : State) : Loc → Nat
  | .cfg => cfgWord s.cfg
  | .cmd => 0
  | .status => statusWord s
  | .mod => s.mod
  | .gen => s.gen
  | .len => s.len
  | .base => s.base
  | .exp => s.exp
  | .result => s.result
  | .baseRoot => s.baseRoot
  | .nbits => s.nbits
  | .root i => rootRead s i
  | .seq k => seqRead s k
  | .reserved => 0

/-- The next draw of a read made while busy, a `W`-bit word (70_reset_and_hazards.md R242; log 7). -/
def busyDraw (s : State) : Nat := Config.busyReadDraw s.draws % s.cfg.bound

/-- `MemRead(a, 1)` (R55): the word read appears on `bus_rdata`. It "changes no state" of the block; a draw moves the
model's counter on, so that the next one is fresh. -/
def hostRead (a : Addr) (s : State) : State :=
  if busy s && isOutput (locate s.cfg a) then { s with rdata := busyDraw s, draws := s.draws + 1 }
  else { s with rdata := peek s (locate s.cfg a) }

/-- A host write dropped because BUSY is 1 (70_reset_and_hazards.md R240, R241): only ACCV changes (60_exceptions.md R204). -/
def dropWrite (s : State) : State := { s with status := droppedStatus s.status }

/-- A host write that reaches its location `loc`, other than CMD: the operand registers and SEQ are stored as written,
STATUS only has its ACCV cleared, read-only and reserved locations ignore it (R56 to R58). -/
def poke (s : State) (v : Nat) : Loc → State
  | .status => { s with status := writtenStatus s.status v }
  | .mod => { s with mod := v }
  | .gen => { s with gen := v }
  | .len => { s with len := v }
  | .base => { s with base := v }
  | .exp => { s with exp := v }
  | .seq k => seqWrite s k v
  | .cmd => s
  | .cfg => s
  | .result => s
  | .baseRoot => s
  | .nbits => s
  | .root _ => s
  | .reserved => s

/-- The locations whose writes are dropped while BUSY is 1 (R56, R240): the operand registers and SEQ. -/
def isOperand : Loc → Bool
  | .mod => true
  | .gen => true
  | .len => true
  | .base => true
  | .exp => true
  | .seq _ => true
  | .cfg => false
  | .cmd => false
  | .status => false
  | .result => false
  | .baseRoot => false
  | .nbits => false
  | .root _ => false
  | .reserved => false

/-- `MemWrite(a, 1, v)` at a location other than CMD (R56). -/
def storeWrite (s : State) (v : Nat) (loc : Loc) : State :=
  if busy s && isOperand loc then dropWrite s else poke s v loc

/-- The length checks of `Validate` (R106), made for PRECOMPUTE_ROOTS and NTT_TRANSFORM. -/
def validateLength (s : State) : ErrCode :=
  if isPow2 s.len = false then .invalidLength
  else if s.cfg.nMax < s.len then .capacityExceeded
  else .none

/-- `Validate(v)` (R106): the first check that fails gives the code; `.none` is OK. -/
def validate (s : State) (v : Nat) : ErrCode :=
  let op := opcodeField v
  if reservedField v ≠ 0 ∨ ¬(op = 0x01 ∨ op = 0x02 ∨ op = 0x03) then .illegalCommand
  else if (op = 0x02 ∨ op = 0x03) ∧ validateLength s ≠ .none then validateLength s
  else if s.mod < 2 then .invalidModulus
  else .none

/-- `Accept` (R102). -/
def accept (i : Instr) (s : State) : State :=
  { s with inflight := some i, status := acceptedStatus s.status }

/-- `Reject(code)` (R103), which is `raise Error(code)` (60_exceptions.md R201): precise, nothing else changes. -/
def reject (code : ErrCode) (s : State) : State := { s with status := rejectedStatus s.status code }

/-- The end of `Complete` (R104): INFLIGHT NONE (so BUSY 0) and DONE 1. -/
def finish (s : State) : State := { s with inflight := none, status := completedStatus s.status }

/-- The command word of `i` written to CMD while BUSY is 0 (R101): accepted or rejected. -/
def present (i : Instr) (s : State) : State :=
  match validate s (encode i) with
  | .none => accept i s
  | code => reject code s

/-- Command `i` in state `s`, its work given by `perform` (R100). Idle: its word is written to CMD (R101). In flight: its
completion step (R104), which the spec defines on validated operands only (R126, R202). Another command in flight: its word
written to CMD is dropped (70_reset_and_hazards.md R241). -/
def runCommand (i : Instr) (perform : State → State) (s : State) : Host.Outcome State Fault Refusal :=
  match s.inflight with
  | none => .next (present i s)
  | some j =>
    if j = i then
      if validate s (encode i) = .none then .next (finish (perform s)) else .fault .unvalidatedOperands
    else .next (dropWrite s)

/-- The reset event (R230, R231): whatever the state was, every register as after reset, SEQ a new draw for each entry, a
command in flight abandoned. CFG, the host's own side and the draw counter stay (log 13). -/
def applyReset (s : State) : State :=
  { s with
    status := { done := false, err := false, accv := false, errCode := .none }
    mod := 0
    gen := 0
    len := 0
    base := 0
    exp := 0
    result := 0
    baseRoot := 0
    nbits := 0
    root := List.replicate s.cfg.logNMax 0
    seq := []
    inflight := none
    resets := s.resets + 1 }

end Sys2Proof.Machine
end

