-- ==== Sys2Proof/Machine/Modexp.lean ====
section
/-! DEFINITION. The modular_exponentiation_unit's command (41_modexp.md). -/

namespace Sys2Proof.Machine

/-- `PerformModpow()` (R121): RESULT is the only location written. -/
def performModpow (s : State) : State := { s with result := modpow s.base s.exp s.mod }

/-- MODPOW (R121). -/
def execModpow (s : State) : Host.Outcome State Fault Refusal := runCommand .modpow performModpow s

end Sys2Proof.Machine
end

