-- ==== Sys2Proof/Machine/Roots.lean ====
section
/-! DEFINITION. The root_of_unity_precomputer's command (42_roots.md). -/

namespace Sys2Proof.Machine

/-- The ROOT entries `PerformPrecompute()` leaves: the table in entries `0 .. nbits-1`, 0 in entries
`nbits .. LOGN_MAX-1` (R141). -/
def rootEntries (p : Params) (t : RootTable) : List Nat :=
  (List.range p.logNMax).map fun i => if i < t.nbits then t.table.getD i 0 else 0

/-- `PerformPrecompute()` (R141). -/
def performPrecompute (s : State) : State :=
  let t := rootTable s.gen s.len s.mod
  { s with nbits := t.nbits, baseRoot := t.baseRoot, root := rootEntries s.cfg t }

/-- PRECOMPUTE_ROOTS (R141). -/
def execPrecomputeRoots (s : State) : Host.Outcome State Fault Refusal :=
  runCommand .precomputeRoots performPrecompute s

end Sys2Proof.Machine
end

