-- ==== Sys2Proof/Machine/Ntt.lean ====
section
/-! DEFINITION. The ntt_butterfly_engine's command (43_ntt.md). -/

namespace Sys2Proof.Machine

/-- The working buffer `res = [ SEQ[k] for k in 0 .. n-1 ]` (R161, step 2). -/
def seqTake (s : State) (n : Nat) : List Nat := (List.range n).map (seqRead s)

/-- The table the butterflies read, `tab = [ ROOT[i] for i in 0 .. reg[NBITS]-1 ]` (R161). -/
def rootTake (s : State) : List Nat := (List.range s.nbits).map (rootRead s)

/-- `PerformTransform()` (R161): the root table first, then the butterfly network over SEQ[0 .. n-1]. -/
def performTransform (s : State) : State :=
  let s' := performPrecompute s
  seqWriteAll s' 0 (butterflyNetwork (seqTake s' s'.len) (rootTake s') s'.len s'.mod)

/-- NTT_TRANSFORM (R161). -/
def execNttTransform (s : State) : Host.Outcome State Fault Refusal := runCommand .nttTransform performTransform s

end Sys2Proof.Machine
end

