-- ==== Sys2Proof/Machine/Dispatch.lean ====
section
/-! DEFINITION. One arm per command of spec/opcode_table.json, each a direct call of its meaning. -/

namespace Sys2Proof.Machine

def exec (i : Instr) (s : State) : Host.Outcome State Fault Refusal :=
  match i with
  | .modpow => Sys2Proof.Machine.execModpow s
  | .precomputeRoots => Sys2Proof.Machine.execPrecomputeRoots s
  | .nttTransform => Sys2Proof.Machine.execNttTransform s

end Sys2Proof.Machine
end

