-- ==== Sys2Proof/Machine/Bus.lean ====
section
/-! DEFINITION. One event of the machine (20_memory.md R59): a host transaction (R55, R56, 40_command_protocol.md R101), the
reset event (70_reset_and_hazards.md R230) or the block's completion step (R104); and the host's written notation
(30_encoding.md R84, R85). -/

namespace Sys2Proof.Machine

/-- `CommandWrite(v)` (R101): dropped without validation while busy; an illegal word is rejected (R82); a command word is
the command's to validate, accept or reject. -/
def commandWrite (v : Nat) (s : State) : Host.Outcome State Fault Refusal :=
  if busy s then .next (dropWrite s)
  else
    match decode v with
    | .command i => exec i s
    | .illegalCommand => .next (reject .illegalCommand s)

/-- `MemWrite(a, 1, v)` (R56). `bus_wdata` is `W` bits wide (R64), so the low `W` bits of `v` are what is written (log 11). -/
def hostWrite (a : Addr) (v : Nat) (s : State) : Host.Outcome State Fault Refusal :=
  match locate s.cfg a with
  | .cmd => commandWrite (v % s.cfg.bound) s
  | loc => .next (storeWrite s (v % s.cfg.bound) loc)

/-- One turn of `WAIT` (R85): read STATUS; the loop goes on while bit 0 (BUSY) of the value read is 1. -/
def waitTurn (s : State) : State :=
  let t := hostRead statusAddr s
  if t.rdata.testBit 0 then { t with host := .wait :: t.host } else t

/-- The host's next operation, already taken off its list. -/
def hostEvent (s : State) : HostOp → Host.Outcome State Fault Refusal
  | .read a => .next (hostRead a s)
  | .write a v => hostWrite a v s
  | .wait => .next (waitTurn s)
  | .reset => .next (applyReset s)

/-- The completion step of the command in flight (R104), when `i` is that command. -/
def completionEvent (i : Instr) (s : State) : Host.Outcome State Fault Refusal := exec i { s with turns := s.turns.tail }

/-- The next event of R59's total order. Idle: the host's next operation, or nothing ("When idle it does nothing until the
next host access", R217). In flight: the host's next operation while `turns` says so, else the completion step (R104, R105;
log 4). -/
def nextEvent (s : State) : Host.Outcome State Fault Refusal :=
  match s.inflight, s.host, s.turns with
  | none, [], _ => .next s
  | none, op :: rest, _ => hostEvent { s with host := rest } op
  | some _, op :: rest, true :: later => hostEvent { s with host := rest, turns := later } op
  | some i, _, _ => completionEvent i s

/-- Put the command word `w` (of `nbits` bits) where the next step takes it: the host's next operation writes it to CMD,
and the block is idle, since a command is only taken up while BUSY is 0 (R101; log 9). -/
def placeCommand (s : State) (nbits w : Nat) : State :=
  { s with inflight := none, host := .write cmdAddr (w % 2 ^ nbits) :: s.host }

/-- The registers a host program names (R84). -/
inductive Reg where
  | cfg
  | cmd
  | status
  | mod
  | gen
  | len
  | base
  | exp
  | result
  | baseRoot
  | nbits
deriving DecidableEq, Repr

/-- `addr(reg)` (R84, R50). -/
def regAddr : Reg → Addr
  | .cfg => 0x000#13
  | .cmd => 0x001#13
  | .status => 0x002#13
  | .mod => 0x003#13
  | .gen => 0x004#13
  | .len => 0x005#13
  | .base => 0x006#13
  | .exp => 0x007#13
  | .result => 0x008#13
  | .baseRoot => 0x009#13
  | .nbits => 0x00A#13

/-- Host statements (R84) and pseudo-statements (R85), in the order of the spec's two tables. -/
inductive HostStmt where
  | wr (r : Reg) (v : Nat)
  | wrSeq (k : Nat) (v : Nat)
  | rd (r : Reg)
  | rdSeq (k : Nat)
  | rdRoot (i : Nat)
  | cmd (i : Instr)
  | cmdRaw (v : Nat)
  | clrAccv
  | wait
  | run (i : Instr)
  | loadSeq (vs : List Nat)
deriving DecidableEq, Repr

/-- DESIGN CHOICE (log 19): a statement is called well-formed when it names only table entries that exist and words that fit.
R84 bounds no index, and 95_test_vectors.md H10 writes `RD ROOT[10]` at LOGN_MAX = 10, so this check is the model's own; no
meaning asks for it, and `stmtOps` gives such a statement its transaction all the same. -/
def stmtWf (p : Params) : HostStmt → Bool
  | .wr _ v => decide (v < p.bound)
  | .wrSeq k v => decide (k < p.nMax) && decide (v < p.bound)
  | .rd _ => true
  | .rdSeq k => decide (k < p.nMax)
  | .rdRoot i => decide (i < p.logNMax)
  | .cmd i => i.wf
  | .cmdRaw v => decide (v < p.bound)
  | .clrAccv => true
  | .wait => true
  | .run i => i.wf
  | .loadSeq vs => decide (vs.length ≤ p.nMax) && vs.all fun v => decide (v < p.bound)

/-- `WR SEQ[first], v0 ; WR SEQ[first+1], v1 ; ...` (R85). -/
def loadSeqOps (first : Nat) : List Nat → List HostOp
  | [] => []
  | v :: vs => .write (seqAddr first) v :: loadSeqOps (first + 1) vs

/-- The transactions of a statement (R84) and the expansion of a pseudo-statement (R85). -/
def stmtOps : HostStmt → List HostOp
  | .wr r v => [.write (regAddr r) v]
  | .wrSeq k v => [.write (seqAddr k) v]
  | .rd r => [.read (regAddr r)]
  | .rdSeq k => [.read (seqAddr k)]
  | .rdRoot i => [.read (rootAddr i)]
  | .cmd i => [.write cmdAddr (encode i)]
  | .cmdRaw v => [.write cmdAddr v]
  | .clrAccv => [.write statusAddr 0x8]
  | .wait => [.wait]
  | .run i => [.write cmdAddr (encode i), .wait]
  | .loadSeq vs => loadSeqOps 0 vs

/-- The transactions of a host program, in order. -/
def programOps (prog : List HostStmt) : List HostOp := prog.flatMap stmtOps

end Sys2Proof.Machine
end

