-- ==== Sys2Proof/Safety.lean ====
section
/-! DEFINITION. What a reachable state of the block looks like, and the terms the claims are stated in: the operands a
command accepts, the order of the transform's output. -/

namespace Sys2Proof.Machine

/-- The operands `Validate` passes for a command (40_command_protocol.md R106), in the spec's own terms: the modulus is at
least 2, and for the two transform commands LEN is a power of two not above `N_MAX`. -/
def operandsOk : Instr → State → Prop
  | .modpow, s => 2 ≤ s.mod
  | .precomputeRoots, s => 2 ≤ s.mod ∧ ∃ k ≤ s.cfg.logNMax, s.len = 2 ^ k
  | .nttTransform, s => 2 ≤ s.mod ∧ ∃ k ≤ s.cfg.logNMax, s.len = 2 ^ k

/-- What holds of the block's state at reset and after every event. -/
structure State.Inv (s : State) : Prop where
  /-- The parameters are ones the block can have (R2, R3). -/
  params : s.cfg.wf = true
  /-- Every register "holds an unsigned `W`-bit value" (R2, R5). -/
  regs : ∀ w ∈ [s.mod, s.gen, s.len, s.base, s.exp, s.result, s.baseRoot, s.nbits, s.rdata], w < s.cfg.bound
  /-- ROOT has `LOGN_MAX` entries (R39). -/
  rootLength : s.root.length = s.cfg.logNMax
  /-- Every ROOT entry is a `W`-bit word (R2). -/
  rootFits : ∀ w ∈ s.root, w < s.cfg.bound
  /-- NBITS is "a value from 0 to `LOGN_MAX`" (R37). -/
  nbitsRange : s.nbits ≤ s.cfg.logNMax
  /-- The ROOT entries at NBITS and above are 0 (R39). -/
  rootAbove : ∀ i, s.nbits ≤ i → rootRead s i = 0
  /-- The cells of SEQ are in canonical form (log 8). -/
  seqForm : s.seq.wf = true
  /-- Every cell is an entry of SEQ that exists and a `W`-bit word (R40, R2). -/
  seqFits : ∀ c ∈ s.seq, c.1 < s.cfg.nMax ∧ c.2 < s.cfg.bound
  /-- "At most one of DONE and ERR is 1 at any time" (R26). -/
  doneOrErr : ¬(s.status.done = true ∧ s.status.err = true)
  /-- ERRCODE is "the error code of the last rejected command, 0 otherwise" (R23). -/
  errHasCode : s.status.err = true ↔ s.status.errCode ≠ .none
  /-- INVALID_EXPONENT is "reserved; never raised" (R200). -/
  errRaised : s.status.errCode ≠ .invalidExponent
  /-- While busy, DONE and ERR are 0 (R102). -/
  busyClear : s.inflight ≠ none → s.status.done = false ∧ s.status.err = false
  /-- The command in flight passed validation, and its operands still do (R102, R126, R202). -/
  inFlightValid : ∀ i, s.inflight = some i → operandsOk i s

/-- `rev(m)`: the `nbits`-bit binary representation of `m` reversed (43_ntt.md R170). -/
def bitReverse : (nbits m : Nat) → Nat
  | 0, _ => 0
  | b + 1, m => m % 2 * 2 ^ b + bitReverse b (m / 2)

/-- `mod( sum over m in 0 .. 2^nbits-1 of input[rev(m)] * w^(m*k), q )` (R170). -/
def reversedDft (input : Nat → Nat) (nbits w q k : Nat) : Nat :=
  ((List.range (2 ^ nbits)).map fun m => input (bitReverse nbits m) * w ^ (m * k)).sum % q

/-- The base root of R140 in closed form: `generator^(n-1) mod modulus`. -/
def baseRootOf (g n q : Nat) : Nat := g ^ (n - 1) % q

/-- Entry `i` of the root table of R140 in closed form: `base_root^(2^i) mod modulus`. -/
def rootEntryOf (g n q i : Nat) : Nat := baseRootOf g n q ^ 2 ^ i % q

/-- ROOT after PRECOMPUTE_ROOTS or NTT_TRANSFORM with `n = 2^nbits`: the table, then zeros (R141). -/
def rootFileOf (p : Params) (g nbits q : Nat) : List Nat :=
  (List.range p.logNMax).map fun i => if i < nbits then rootEntryOf g (2 ^ nbits) q i else 0

end Sys2Proof.Machine
end

