-- ==== Sys2Proof/Certificates/Slice0/Obligations.lean ====
section
/-! DEFINITION. The statements made about the machine, each from the rule its docstring cites. -/

open Sys2Proof Sys2Proof.Machine

/-! ## The command word -/

/-- R81: each command is selected by exactly one whole word; every other word is illegal, and rejected with
ILLEGAL_COMMAND. -/
def Obligations.CommandSelectedByWholeWord : Prop :=
  (∀ v : Nat, decode v = .command .modpow ↔ v = 0x01) ∧
  (∀ v : Nat, decode v = .command .precomputeRoots ↔ v = 0x02) ∧
  (∀ v : Nat, decode v = .command .nttTransform ↔ v = 0x03) ∧
  (∀ v : Nat, v ≠ 0x01 → v ≠ 0x02 → v ≠ 0x03 → decode v = .illegalCommand ∧
    ∀ s : State, s.inflight = none →
      commandWrite v s = .next { s with status := ⟨false, true, s.status.accv, .illegalCommand⟩ })

/-- R80, R81: the encoder and the decoder agree, in both directions, and the encoder writes RSVD as 0. -/
def Obligations.DecodeEncodeAgree : Prop :=
  (∀ i : Instr, decode (encode i) = .command i ∧ reservedField (encode i) = 0 ∧ opcodeField (encode i) = opcodeOf i) ∧
  (∀ (v : Nat) (i : Instr), decode v = .command i → v = encode i)

/-- Words written out from 30_encoding.md's table and examples decode to what they stand for. -/
def Obligations.WrittenWordsDecode : Prop :=
  decodeTableWord 64 0x0000000000000001 = some .modpow ∧
  decodeTableWord 64 0x0000000000000002 = some .precomputeRoots ∧
  decodeTableWord 64 0x0000000000000003 = some .nttTransform ∧
  decodeTableWord 64 0x0000000000000101 = none ∧
  decodeTableWord 64 0x8000000000000003 = none ∧
  decodeTableWord 64 0x0000000000000000 = none

/-- R82: an illegal word (OPCODE 0x00, OPCODE 0x04 to 0xFF, or a 1 in RSVD) written while BUSY is 0 is rejected with
ILLEGAL_COMMAND and has no other effect. -/
def Obligations.IllegalWordRejected : Prop :=
  ∀ (s : State) (v : Nat), s.inflight = none → (v % 256 = 0 ∨ 4 ≤ v % 256 ∨ v / 256 ≠ 0) →
    commandWrite v s = .next { s with status := ⟨false, true, s.status.accv, .illegalCommand⟩ }

/-! ## Steps -/

/-- A command word at the head of the host's list (the model's own, log 4), written to CMD while idle, is decoded and run by
the step; so is one placed by `withFetchWord` (log 9). -/
def Obligations.StepRunsPresentedCommand : Prop :=
  (∀ (s : State) (v : Nat) (rest : List HostOp) (i : Instr), s.inflight = none → s.host = .write cmdAddr v :: rest →
    decode (v % s.cfg.bound) = .command i → step s = exec i { s with host := rest }) ∧
  (∀ (s : State) (i : Instr), s.cfg.wf = true →
    step (s.withFetchWord 64 (encode i)) = exec i { s with inflight := none })

/-- R104: while a command is in flight and the host does not move, the step is that command's completion; `host` and `turns`,
the model's own, say when it does not (log 4). -/
def Obligations.StepCompletesCommandInFlight : Prop :=
  ∀ (s : State) (i : Instr), s.inflight = some i → (s.host = [] ∨ s.turns.headD false = false) →
    step s = exec i { s with turns := s.turns.tail }

/-- R59, R217: a step of the idle block is the host's next operation, or nothing; while busy the host moves when `turns`
(the model's own, log 4) says so. -/
def Obligations.StepTakesHostOperations : Prop :=
  (∀ s : State, s.inflight = none → s.host = [] → step s = .next s) ∧
  (∀ (s : State) (op : HostOp) (rest : List HostOp), s.inflight = none → s.host = op :: rest →
    step s = hostEvent { s with host := rest } op) ∧
  (∀ (s : State) (i : Instr) (op : HostOp) (rest : List HostOp) (later : List Bool), s.inflight = some i →
    s.host = op :: rest → s.turns = true :: later → step s = hostEvent { s with host := rest, turns := later } op)

/-! ## The command protocol -/

/-- R101, R103: a CMD write is dropped while busy, else rejected with Validate's code (writing ERR, DONE and ERRCODE alone),
else accepted (R102). -/
def Obligations.CommandWriteFollowsProtocol : Prop :=
  ∀ (s : State) (v : Nat),
    (s.inflight ≠ none → commandWrite v s = .next { s with status := { s.status with accv := true } }) ∧
    (s.inflight = none → validate s v ≠ .none →
      commandWrite v s = .next { s with status := ⟨false, true, s.status.accv, validate s v⟩ }) ∧
    (s.inflight = none → validate s v = .none →
      ∃ i, v = encode i ∧
        commandWrite v s = .next { s with inflight := some i, status := ⟨false, false, s.status.accv, .none⟩ })

/-- R106: what each answer of Validate means; the checks in the spec's order, so that no two conditions overlap. -/
def Obligations.ValidateChecksInOrder : Prop :=
  ∀ (s : State) (v : Nat),
    (validate s v = .illegalCommand ↔ v ≠ 0x01 ∧ v ≠ 0x02 ∧ v ≠ 0x03) ∧
    (validate s v = .invalidLength ↔ (v = 0x02 ∨ v = 0x03) ∧ ¬∃ k, s.len = 2 ^ k) ∧
    (validate s v = .capacityExceeded ↔ (v = 0x02 ∨ v = 0x03) ∧ (∃ k, s.len = 2 ^ k) ∧ s.cfg.nMax < s.len) ∧
    (validate s v = .invalidModulus ↔
      s.mod < 2 ∧ (v = 0x01 ∨ ((v = 0x02 ∨ v = 0x03) ∧ (∃ k, s.len = 2 ^ k) ∧ s.len ≤ s.cfg.nMax))) ∧
    (validate s v = .none ↔
      2 ≤ s.mod ∧ (v = 0x01 ∨ ((v = 0x02 ∨ v = 0x03) ∧ (∃ k, s.len = 2 ^ k) ∧ s.len ≤ s.cfg.nMax)))

/-- R102: acceptance writes INFLIGHT and STATUS alone, ACCV kept; and from then until completion or reset no event changes
an operand, a result, ROOT or SEQ (that the operands "cannot change before completion" is a sentence R102 marks as
derived from R240). -/
def Obligations.AcceptanceFixesOperands : Prop :=
  (∀ (i : Instr) (s : State), s.inflight = none → operandsOk i s →
    exec i s = .next { s with inflight := some i, status := ⟨false, false, s.status.accv, .none⟩ }) ∧
  (∀ s t : State, s.inflight ≠ none → step s = .next t → t.inflight ≠ none →
    t.inflight = s.inflight ∧ t.mod = s.mod ∧ t.gen = s.gen ∧ t.len = s.len ∧ t.base = s.base ∧ t.exp = s.exp ∧
    t.result = s.result ∧ t.baseRoot = s.baseRoot ∧ t.nbits = s.nbits ∧ t.root = s.root ∧ t.seq = s.seq ∧
    t.resets = s.resets)

/-- A rejected command word written again is rejected again with the same code (the sentence R109 marks as derived from
R106 and R103). -/
def Obligations.RejectedAgainTheSame : Prop :=
  ∀ (s t : State) (v : Nat), s.inflight = none → commandWrite v s = .next t → t.inflight = none →
    commandWrite v t = .next t

/-! ## The three commands -/

/-- R121: MODPOW, its word, its rejection, its acceptance and its completion. -/
def Obligations.ModpowCommand : Prop :=
  (∀ v : Nat, decode v = .command .modpow ↔ v = 0x01) ∧
  (∀ s : State, s.inflight = none → s.mod < 2 →
    exec .modpow s = .next { s with status := ⟨false, true, s.status.accv, .invalidModulus⟩ }) ∧
  (∀ s : State, s.inflight = none → 2 ≤ s.mod →
    exec .modpow s = .next { s with inflight := some .modpow, status := ⟨false, false, s.status.accv, .none⟩ }) ∧
  (∀ s : State, s.inflight = some .modpow → 2 ≤ s.mod →
    exec .modpow s = .next
      { s with result := s.base ^ s.exp % s.mod, inflight := none, status := { s.status with done := true } })

/-- R141: PRECOMPUTE_ROOTS, its word, its rejections in order, its acceptance and its completion. -/
def Obligations.PrecomputeRootsCommand : Prop :=
  (∀ v : Nat, decode v = .command .precomputeRoots ↔ v = 0x02) ∧
  (∀ s : State, s.inflight = none → (¬∃ k, s.len = 2 ^ k) →
    exec .precomputeRoots s = .next { s with status := ⟨false, true, s.status.accv, .invalidLength⟩ }) ∧
  (∀ (s : State) (k : Nat), s.inflight = none → s.len = 2 ^ k → s.cfg.logNMax < k →
    exec .precomputeRoots s = .next { s with status := ⟨false, true, s.status.accv, .capacityExceeded⟩ }) ∧
  (∀ (s : State) (k : Nat), s.inflight = none → s.len = 2 ^ k → k ≤ s.cfg.logNMax → s.mod < 2 →
    exec .precomputeRoots s = .next { s with status := ⟨false, true, s.status.accv, .invalidModulus⟩ }) ∧
  (∀ (s : State) (k : Nat), s.inflight = none → s.len = 2 ^ k → k ≤ s.cfg.logNMax → 2 ≤ s.mod →
    exec .precomputeRoots s = .next
      { s with inflight := some .precomputeRoots, status := ⟨false, false, s.status.accv, .none⟩ }) ∧
  (∀ (s : State) (k : Nat), s.inflight = some .precomputeRoots → s.len = 2 ^ k → k ≤ s.cfg.logNMax → 2 ≤ s.mod →
    exec .precomputeRoots s = .next
      { s with
        nbits := k
        baseRoot := baseRootOf s.gen s.len s.mod
        root := rootFileOf s.cfg s.gen k s.mod
        inflight := none
        status := { s.status with done := true } })

/-- R161: NTT_TRANSFORM, its word, its rejections in order, its acceptance and its completion. The output is R160's network
over the entries SEQ[0 .. n-1] and the root table. -/
def Obligations.NttTransformCommand : Prop :=
  (∀ v : Nat, decode v = .command .nttTransform ↔ v = 0x03) ∧
  (∀ s : State, s.inflight = none → (¬∃ k, s.len = 2 ^ k) →
    exec .nttTransform s = .next { s with status := ⟨false, true, s.status.accv, .invalidLength⟩ }) ∧
  (∀ (s : State) (k : Nat), s.inflight = none → s.len = 2 ^ k → s.cfg.logNMax < k →
    exec .nttTransform s = .next { s with status := ⟨false, true, s.status.accv, .capacityExceeded⟩ }) ∧
  (∀ (s : State) (k : Nat), s.inflight = none → s.len = 2 ^ k → k ≤ s.cfg.logNMax → s.mod < 2 →
    exec .nttTransform s = .next { s with status := ⟨false, true, s.status.accv, .invalidModulus⟩ }) ∧
  (∀ (s : State) (k : Nat), s.inflight = none → s.len = 2 ^ k → k ≤ s.cfg.logNMax → 2 ≤ s.mod →
    exec .nttTransform s = .next
      { s with inflight := some .nttTransform, status := ⟨false, false, s.status.accv, .none⟩ }) ∧
  (∀ (s : State) (k : Nat), s.inflight = some .nttTransform → s.len = 2 ^ k → k ≤ s.cfg.logNMax → 2 ≤ s.mod →
    ∃ cells : Mem, ∃ t : State, exec .nttTransform s = .next t ∧
      t = { s with
            nbits := k
            baseRoot := baseRootOf s.gen s.len s.mod
            root := rootFileOf s.cfg s.gen k s.mod
            seq := cells
            inflight := none
            status := { s.status with done := true } } ∧
      (∀ j < s.len, seqRead t j
        = (butterflyNetwork ((List.range s.len).map (seqRead s))
            ((List.range k).map (rootEntryOf s.gen s.len s.mod)) s.len s.mod).getD j 0) ∧
      (∀ j, s.len ≤ j → seqRead t j = seqRead s j))

/-- R241: a command whose word is written while another is in flight is dropped; the command in flight, DONE, ERR and
ERRCODE are not affected. -/
def Obligations.CommandDroppedWhileOtherInFlight : Prop :=
  ∀ (s : State) (i j : Instr), s.inflight = some j → j ≠ i →
    exec i s = .next { s with status := { s.status with accv := true } }

/-- A completion stops only on operands Validate would not have passed (the model's choice, log 10; R126, R202). -/
def Obligations.CompletionFaultsOnlyUnvalidated : Prop :=
  ∀ (s : State) (i : Instr),
    (∀ f, exec i s = .fault f → s.inflight = some i ∧ ¬operandsOk i s) ∧
    (s.inflight = some i → ¬operandsOk i s → exec i s = .fault .unvalidatedOperands) ∧
    (∀ r, exec i s ≠ .refused r)

/-! ## What each command leaves alone -/

/-- MODPOW and PRECOMPUTE_ROOTS: whatever next state they answer, the locations they do not write are as before; all of SEQ
is. -/
def Obligations.RegisterCommandsFrame : Prop :=
  ∀ s t : State,
    (exec .modpow s = .next t →
      t.cfg = s.cfg ∧ t.mod = s.mod ∧ t.gen = s.gen ∧ t.len = s.len ∧ t.base = s.base ∧ t.exp = s.exp ∧
      t.baseRoot = s.baseRoot ∧ t.nbits = s.nbits ∧ t.root = s.root ∧ (∀ k, seqRead t k = seqRead s k) ∧
      (s.inflight ≠ some .modpow → t.result = s.result) ∧
      t.host = s.host ∧ t.turns = s.turns ∧ t.rdata = s.rdata ∧ t.resets = s.resets ∧ t.draws = s.draws) ∧
    (exec .precomputeRoots s = .next t →
      t.cfg = s.cfg ∧ t.mod = s.mod ∧ t.gen = s.gen ∧ t.len = s.len ∧ t.base = s.base ∧ t.exp = s.exp ∧
      t.result = s.result ∧ (∀ k, seqRead t k = seqRead s k) ∧
      (s.inflight ≠ some .precomputeRoots → t.baseRoot = s.baseRoot ∧ t.nbits = s.nbits ∧ t.root = s.root) ∧
      t.host = s.host ∧ t.turns = s.turns ∧ t.rdata = s.rdata ∧ t.resets = s.resets ∧ t.draws = s.draws)

/-- NTT_TRANSFORM: the locations it does not write are as before; every entry of SEQ outside `0 .. n-1` is, and all of SEQ
unless it completes (R161, R169). -/
def Obligations.TransformFrame : Prop :=
  ∀ s t : State, exec .nttTransform s = .next t →
    t.cfg = s.cfg ∧ t.mod = s.mod ∧ t.gen = s.gen ∧ t.len = s.len ∧ t.base = s.base ∧ t.exp = s.exp ∧
    t.result = s.result ∧ (∀ k, s.len ≤ k → seqRead t k = seqRead s k) ∧
    (s.inflight ≠ some .nttTransform →
      t.baseRoot = s.baseRoot ∧ t.nbits = s.nbits ∧ t.root = s.root ∧ ∀ k, seqRead t k = seqRead s k) ∧
    t.host = s.host ∧ t.turns = s.turns ∧ t.rdata = s.rdata ∧ t.resets = s.resets ∧ t.draws = s.draws

/-- STATUS under the commands: a completion writes DONE alone, and ACCV changes only where the command is dropped (R27,
R102 to R104). -/
def Obligations.CommandStatusFrame : Prop :=
  ∀ (i : Instr) (s t : State), exec i s = .next t →
    (s.inflight = some i → t.status = { s.status with done := true }) ∧
    ((s.inflight = none ∨ s.inflight = some i) → t.status.accv = s.status.accv) ∧
    (∀ j, s.inflight = some j → j ≠ i → t.status = { s.status with accv := true })

/-! ## The arithmetic -/

/-- R6: `mod(x, q)` is the unique remainder in `[0, q)`. -/
def Obligations.ReduceIsFlooredRemainder : Prop :=
  ∀ (x : Int) (q : Nat), 1 ≤ q →
    (reduce x q < q ∧ (q : Int) ∣ x - reduce x q) ∧ ∀ r : Nat, r < q → (q : Int) ∣ x - r → r = reduce x q

/-- R7: `ispow2` and `log2`. -/
def Obligations.PowerOfTwoCheck : Prop :=
  (∀ n : Nat, isPow2 n = true ↔ ∃ k, n = 2 ^ k) ∧ (∀ k : Nat, log2 (2 ^ k) = k)

/-- R122: the square-and-multiply loop computes the exact power's remainder. -/
def Obligations.ModpowIsPowerModulo : Prop :=
  ∀ b e q : Nat, 2 ≤ q → modpow b e q = b ^ e % q

/-- R124: the identity law, `0^0` and multiples of the modulus included. -/
def Obligations.ModpowIdentityLaw : Prop :=
  ∀ b q : Nat, 2 ≤ q → modpow b 0 q = 1

/-- `modpow`'s result lies below the modulus (the sentence R123 marks as derived from R120 and R6). -/
def Obligations.ModpowResultReduced : Prop :=
  ∀ b e q : Nat, 2 ≤ q → modpow b e q < q

/-- R140: the root table of a power of two. -/
def Obligations.RootTableValues : Prop :=
  ∀ g k q : Nat, 2 ≤ q →
    (rootTable g (2 ^ k) q).nbits = k ∧
    (rootTable g (2 ^ k) q).baseRoot = modpow g (2 ^ k - 1) q ∧
    (rootTable g (2 ^ k) q).table
      = (List.range k).map fun i => modpow (modpow g (2 ^ k - 1) q) (2 ^ i) q

/-- The table starts with `base_root`, and each further entry is the square of the one before (R143, which the spec marks
as derived from R140 and R122). -/
def Obligations.RootTableBySquaring : Prop :=
  ∀ g k q : Nat, 2 ≤ q →
    (0 < k → (rootTable g (2 ^ k) q).table[0]? = some (rootTable g (2 ^ k) q).baseRoot) ∧
    (∀ i x, i + 1 < k → (rootTable g (2 ^ k) q).table[i]? = some x →
      (rootTable g (2 ^ k) q).table[i + 1]? = some (x ^ 2 % q))

/-- R162: the outputs of a butterfly are the remainders in `[0, q)` of the exact sum and difference. -/
def Obligations.ButterflyIsExact : Prop :=
  ∀ a b tw q : Nat, 2 ≤ q →
    ((butterfly a b tw q).1 : Int) = ((a : Int) + tw * b) % q ∧
    ((butterfly a b tw q).2 : Int) = ((a : Int) - tw * b) % q

/-- The network is its stages in increasing stride order, the stage with stride `2^s` using root
`table[nbits - 1 - s]` (R163, which the spec marks as derived from R160). -/
def Obligations.StagesUseRootsDownwards : Prop :=
  ∀ (res table : List Nat) (k q : Nat), table.length = k →
    butterflyNetwork res table (2 ^ k) q
      = (List.range k).foldl (fun buf s => stage (2 ^ k) q (table.getD (k - 1 - s) 0) (2 ^ s) buf) res

/-- The twiddle at pair offset `j` is `root^j mod q`, 1 at `j = 0`, so the first stage does not depend on its root (R164,
whose last point the spec marks as derived from R160 and R124). -/
def Obligations.TwiddlesAndFirstStage : Prop :=
  ∀ q : Nat, 2 ≤ q →
    (∀ (res : List Nat) (root stride start j : Nat),
      butterflyAt q root stride res (start, j)
        = (res.set (start + j)
            (butterfly (res.getD (start + j) 0) (res.getD (start + j + stride) 0) (root ^ j % q) q).1).set
          (start + j + stride)
            (butterfly (res.getD (start + j) 0) (res.getD (start + j + stride) 0) (root ^ j % q) q).2) ∧
    (∀ root, modpow root 0 q = 1) ∧
    (∀ (res : List Nat) (n root root' : Nat), stage n q root 1 res = stage n q root' 1 res)

/-- Stages in increasing stride order, and within each stage the butterflies in any order, give the network's output (R165,
whose independence of a stage's butterflies the spec marks as derived from R160). -/
def Obligations.ButterflyOrderIrrelevant : Prop :=
  ∀ (res table : List Nat) (k q : Nat) (order : Nat → List (Nat × Nat)),
    (∀ s < k, (order s).Perm (stagePairs (2 ^ k) (2 ^ s))) →
    (List.range k).foldl
        (fun buf s => (order s).foldl (butterflyAt q (table.getD (k - 1 - s) 0) (2 ^ s)) buf) res
      = butterflyNetwork res table (2 ^ k) q

/-- After a transform with `n >= 2` every entry `SEQ[0 .. n-1]` lies below the modulus, whatever it held before (R167, which
the spec marks as derived from R160 and R162). -/
def Obligations.TransformOutputReduced : Prop :=
  ∀ (s : State) (k : Nat), s.inflight = some .nttTransform → s.len = 2 ^ k → 1 ≤ k → k ≤ s.cfg.logNMax → 2 ≤ s.mod →
    ∃ t, exec .nttTransform s = .next t ∧ ∀ j < s.len, seqRead t j < s.mod

/-- With `n = 1` the transform leaves every entry of SEQ as it was, even one at or above the modulus, and the root table is
empty; MOD is still checked at the CMD write (R166 and R144, which the spec marks as derived from R160 and R140). -/
def Obligations.LengthOneTransformIsIdentity : Prop :=
  (∀ s : State, s.inflight = some .nttTransform → s.len = 1 → 2 ≤ s.mod →
    ∃ t, exec .nttTransform s = .next t ∧ (∀ j, seqRead t j = seqRead s j) ∧
      t.nbits = 0 ∧ t.baseRoot = 1 ∧ t.root = List.replicate s.cfg.logNMax 0) ∧
  (∀ s : State, s.inflight = none → s.len = 1 → s.mod < 2 →
    exec .nttTransform s = .next { s with status := ⟨false, true, s.status.accv, .invalidModulus⟩ })

/-- The values a completion writes depend alone on the operands it finds, which are those of the acceptance
(AcceptanceFixesOperands; R107); a transform of length `n` neither reads nor writes SEQ at or above `n` (R169, which the
spec marks as derived from R160). -/
def Obligations.OutputsDependOnOperandsAlone : Prop :=
  (∀ s s' t t' : State, s.inflight = some .modpow → s'.inflight = some .modpow → s.mod = s'.mod → s.base = s'.base →
    s.exp = s'.exp → exec .modpow s = .next t → exec .modpow s' = .next t' → t.result = t'.result) ∧
  (∀ s s' t t' : State, s.inflight = some .precomputeRoots → s'.inflight = some .precomputeRoots → s.cfg = s'.cfg →
    s.mod = s'.mod → s.gen = s'.gen → s.len = s'.len →
    exec .precomputeRoots s = .next t → exec .precomputeRoots s' = .next t' →
    t.nbits = t'.nbits ∧ t.baseRoot = t'.baseRoot ∧ t.root = t'.root) ∧
  (∀ s s' t t' : State, s.inflight = some .nttTransform → s'.inflight = some .nttTransform → s.cfg = s'.cfg →
    s.mod = s'.mod → s.gen = s'.gen → s.len = s'.len → (∀ j < s.len, seqRead s j = seqRead s' j) →
    exec .nttTransform s = .next t → exec .nttTransform s' = .next t' →
    t.nbits = t'.nbits ∧ t.baseRoot = t'.baseRoot ∧ t.root = t'.root ∧
      (∀ j < s.len, seqRead t j = seqRead t' j) ∧ ∀ j, s.len ≤ j → seqRead t j = seqRead s j)

/-- When `base_root^(n/2) = -1 mod q` and `n >= 2`, the transform is the cyclic DFT of the input taken in bit-reversed
index order (R170, which the spec marks as derived from R160, R163 and R164). -/
def Obligations.TransformIsBitReversedDft : Prop :=
  ∀ (s : State) (k : Nat), s.inflight = some .nttTransform → s.len = 2 ^ k → 1 ≤ k → k ≤ s.cfg.logNMax → 2 ≤ s.mod →
    baseRootOf s.gen s.len s.mod ^ (s.len / 2) % s.mod = s.mod - 1 →
    ∃ t, exec .nttTransform s = .next t ∧
      ∀ j < s.len, seqRead t j = reversedDft (seqRead s) k (baseRootOf s.gen s.len s.mod) s.mod j

/-! ## The register interface -/

/-- R21: the fields of CFG, which no event changes; that `W` fits the 16-bit field WIDTH is the model's reading (log 1). -/
def Obligations.CfgFieldsAreConstant : Prop :=
  (∀ p : Params, p.wf = true →
    cfgWord p % 2 ^ 8 = p.logNMax ∧ cfgWord p / 2 ^ 8 % 2 ^ 16 = p.width ∧ cfgWord p / 2 ^ 24 % 2 ^ 8 = 1 ∧
    cfgWord p / 2 ^ 32 = 0) ∧
  (∀ s t : State, step s = .next t → t.cfg = s.cfg)

/-- R23, R24, R29: the fields of STATUS. -/
def Obligations.StatusWordFields : Prop :=
  ∀ s : State,
    ((statusWord s).testBit 0 = true ↔ s.inflight ≠ none) ∧
    (statusWord s).testBit 1 = s.status.done ∧
    (statusWord s).testBit 2 = s.status.err ∧
    (statusWord s).testBit 3 = s.status.accv ∧
    statusWord s / 2 ^ 4 % 2 ^ 4 = errNumber s.status.errCode ∧
    statusWord s / 2 ^ 8 = 0

/-- What a host read returns at each address, idle and busy (R55, with R58, R242 and R243), and that it changes nothing of
the block. The model's own choices: `rdata` holds the word read (log 5), and a draw is `Config.busyReadDraw` of the counter
`draws`, which the read moves on (log 7). -/
def Obligations.HostReadFollowsMap : Prop :=
  ∀ (s : State) (a : Addr), s.cfg.logNMax ≤ 12 →
    (∃ r d, hostRead a s = { s with rdata := r, draws := d }) ∧
    (a.toNat = 0x000 → (hostRead a s).rdata = cfgWord s.cfg) ∧
    (a.toNat = 0x001 → (hostRead a s).rdata = 0) ∧
    (a.toNat = 0x002 → (hostRead a s).rdata = statusWord s) ∧
    (a.toNat = 0x003 → (hostRead a s).rdata = s.mod) ∧
    (a.toNat = 0x004 → (hostRead a s).rdata = s.gen) ∧
    (a.toNat = 0x005 → (hostRead a s).rdata = s.len) ∧
    (a.toNat = 0x006 → (hostRead a s).rdata = s.base) ∧
    (a.toNat = 0x007 → (hostRead a s).rdata = s.exp) ∧
    (a.toNat = 0x008 → s.inflight = none → (hostRead a s).rdata = s.result) ∧
    (a.toNat = 0x009 → s.inflight = none → (hostRead a s).rdata = s.baseRoot) ∧
    (a.toNat = 0x00A → s.inflight = none → (hostRead a s).rdata = s.nbits) ∧
    (∀ i < s.cfg.logNMax, a.toNat = 0x040 + i → s.inflight = none → (hostRead a s).rdata = rootRead s i) ∧
    (∀ k < s.cfg.nMax, a.toNat = 0x1000 + k → s.inflight = none → (hostRead a s).rdata = seqRead s k) ∧
    ((0x008 ≤ a.toNat ∧ a.toNat ≤ 0x00A) ∨ (0x040 ≤ a.toNat ∧ a.toNat < 0x040 + s.cfg.logNMax) ∨
        (0x1000 ≤ a.toNat ∧ a.toNat < 0x1000 + s.cfg.nMax) → s.inflight ≠ none →
      (hostRead a s).rdata = Config.busyReadDraw s.draws % s.cfg.bound ∧ (hostRead a s).draws = s.draws + 1) ∧
    ((0x00B ≤ a.toNat ∧ a.toNat < 0x040) ∨ (0x040 + s.cfg.logNMax ≤ a.toNat ∧ a.toNat < 0x1000) ∨
        0x1000 + s.cfg.nMax ≤ a.toNat → (hostRead a s).rdata = 0)

/-- R56, with R57 and R58 for writes: what a host write of a `W`-bit word does at each address, idle and busy. -/
def Obligations.HostWriteFollowsMap : Prop :=
  ∀ (s : State) (a : Addr) (v : Nat), s.cfg.logNMax ≤ 12 → v < s.cfg.bound →
    (a.toNat = 0x001 → hostWrite a v s = commandWrite v s) ∧
    (a.toNat = 0x002 → hostWrite a v s
      = .next { s with status := if v / 2 ^ 3 % 2 = 1 then { s.status with accv := false } else s.status }) ∧
    (a.toNat = 0x003 → s.inflight = none → hostWrite a v s = .next { s with mod := v }) ∧
    (a.toNat = 0x004 → s.inflight = none → hostWrite a v s = .next { s with gen := v }) ∧
    (a.toNat = 0x005 → s.inflight = none → hostWrite a v s = .next { s with len := v }) ∧
    (a.toNat = 0x006 → s.inflight = none → hostWrite a v s = .next { s with base := v }) ∧
    (a.toNat = 0x007 → s.inflight = none → hostWrite a v s = .next { s with exp := v }) ∧
    (∀ k < s.cfg.nMax, a.toNat = 0x1000 + k → s.inflight = none →
      ∃ cells : Mem, hostWrite a v s = .next { s with seq := cells } ∧
        ∀ j, seqRead { s with seq := cells } j = if j = k then v else seqRead s j) ∧
    ((0x003 ≤ a.toNat ∧ a.toNat ≤ 0x007) ∨ (0x1000 ≤ a.toNat ∧ a.toNat < 0x1000 + s.cfg.nMax) → s.inflight ≠ none →
      hostWrite a v s = .next { s with status := { s.status with accv := true } }) ∧
    (a.toNat = 0x000 ∨ (0x008 ≤ a.toNat ∧ a.toNat < 0x1000) ∨ 0x1000 + s.cfg.nMax ≤ a.toNat →
      hostWrite a v s = .next s)

/-- R57: a host write to CFG, RESULT, BASE_ROOT, NBITS or a ROOT entry is ignored, "whether or not BUSY is 1". -/
def Obligations.ReadOnlyWritesIgnored : Prop :=
  ∀ (s : State) (a : Addr) (v : Nat), s.cfg.logNMax ≤ 12 →
    (a.toNat = 0x000 ∨ a.toNat = 0x008 ∨ a.toNat = 0x009 ∨ a.toNat = 0x00A ∨
      (0x040 ≤ a.toNat ∧ a.toNat < 0x040 + s.cfg.logNMax)) →
    hostWrite a v s = .next s

/-- R58: a reserved address reads as 0 and ignores writes, idle or busy. -/
def Obligations.ReservedReadsZeroIgnoresWrites : Prop :=
  ∀ (s : State) (a : Addr) (v : Nat), s.cfg.logNMax ≤ 12 →
    ((0x00B ≤ a.toNat ∧ a.toNat < 0x040) ∨ (0x040 + s.cfg.logNMax ≤ a.toNat ∧ a.toNat < 0x1000) ∨
      0x1000 + s.cfg.nMax ≤ a.toNat) →
    hostWrite a v s = .next s ∧ hostRead a s = { s with rdata := 0 }

/-- R240: while busy a write to an operand register or a SEQ entry is dropped and sets ACCV; nothing else changes. -/
def Obligations.OperandWriteDroppedWhileBusy : Prop :=
  ∀ (s : State) (a : Addr) (v : Nat), s.inflight ≠ none → s.cfg.logNMax ≤ 12 →
    ((0x003 ≤ a.toNat ∧ a.toNat ≤ 0x007) ∨ (0x1000 ≤ a.toNat ∧ a.toNat < 0x1000 + s.cfg.nMax)) →
    hostEvent s (.write a v) = .next { s with status := { s.status with accv := true } }

/-- R241: while busy a write to CMD, of any word, is dropped without validation and sets ACCV; nothing else changes. -/
def Obligations.CommandWriteDroppedWhileBusy : Prop :=
  ∀ (s : State) (v : Nat), s.inflight ≠ none →
    hostEvent s (.write cmdAddr v) = .next { s with status := { s.status with accv := true } }

/-- A write of a SEQ entry while idle is read back, and no other entry reads differently (R54, R55, R56). -/
def Obligations.SequenceReadAfterWrite : Prop :=
  ∀ (s t : State) (k j : Nat) (v : Nat), s.cfg.logNMax ≤ 12 → s.inflight = none → k < s.cfg.nMax → j < s.cfg.nMax →
    v < s.cfg.bound → hostWrite (seqAddr k) v s = .next t →
    (hostRead (seqAddr j) t).rdata = if j = k then v else (hostRead (seqAddr j) s).rdata

/-- R50, R84: the addresses a host program names are those of the map. -/
def Obligations.NamedAddresses : Prop :=
  ∀ p : Params, p.wf = true →
    (locate p (regAddr .cfg) = .cfg ∧ locate p (regAddr .cmd) = .cmd ∧ locate p (regAddr .status) = .status ∧
      locate p (regAddr .mod) = .mod ∧ locate p (regAddr .gen) = .gen ∧ locate p (regAddr .len) = .len ∧
      locate p (regAddr .base) = .base ∧ locate p (regAddr .exp) = .exp ∧ locate p (regAddr .result) = .result ∧
      locate p (regAddr .baseRoot) = .baseRoot ∧ locate p (regAddr .nbits) = .nbits) ∧
    (∀ i < p.logNMax, locate p (rootAddr i) = .root i) ∧
    (∀ k < p.nMax, locate p (seqAddr k) = .seq k)

/-! ## Reset -/

/-- The reset event, whatever the state was, sets every register (R230; a command in flight is abandoned, R231); each entry
of SEQ is a free value of its own, of this reset: that it is `Config.seqDraw` of the reset's number and the index is the
model's choice (log 6). -/
def Obligations.ResetSetsEveryRegister : Prop :=
  ∀ s : State,
    ∃ t, hostEvent s .reset = .next t ∧ t.inflight = none ∧ t.status = ⟨false, false, false, .none⟩ ∧ statusWord t = 0 ∧
      t.mod = 0 ∧ t.gen = 0 ∧ t.len = 0 ∧ t.base = 0 ∧ t.exp = 0 ∧ t.result = 0 ∧ t.baseRoot = 0 ∧ t.nbits = 0 ∧
      t.root = List.replicate s.cfg.logNMax 0 ∧
      (∀ k, seqRead t k = Config.seqDraw (s.resets + 1) k % s.cfg.bound) ∧ t.cfg = s.cfg

/-- R230 at the model's start (R234), with the defaults of R2 and R3; that the start is reset number 0 of the free values is
the model's choice (log 6). -/
def Obligations.StartIsTheResetState : Prop :=
  State.reset.cfg.width = 64 ∧ State.reset.cfg.logNMax = 10 ∧ State.reset.inflight = none ∧
  statusWord State.reset = 0 ∧ State.reset.mod = 0 ∧ State.reset.gen = 0 ∧ State.reset.len = 0 ∧
  State.reset.base = 0 ∧ State.reset.exp = 0 ∧ State.reset.result = 0 ∧ State.reset.baseRoot = 0 ∧
  State.reset.nbits = 0 ∧ State.reset.root = List.replicate 10 0 ∧
  (∀ k, seqRead State.reset k = Config.seqDraw 0 k % 2 ^ 64)

/-- R235 step 2: right after reset MODPOW is rejected with INVALID_MODULUS, the two transform commands with
INVALID_LENGTH. -/
def Obligations.ResetRejectsEveryCommand : Prop :=
  exec .modpow State.reset = .next { State.reset with status := ⟨false, true, false, .invalidModulus⟩ } ∧
  exec .precomputeRoots State.reset = .next { State.reset with status := ⟨false, true, false, .invalidLength⟩ } ∧
  exec .nttTransform State.reset = .next { State.reset with status := ⟨false, true, false, .invalidLength⟩ }

/-! ## The whole machine -/

/-- The invariant holds at reset. -/
def Obligations.ResetMeetsInvariant : Prop := State.reset.Inv

/-- Every event keeps the invariant: words fit, SEQ is in canonical form, ROOT has its length and its zeros, at most one of
DONE and ERR, and the command in flight has validated operands. -/
def Obligations.StepKeepsInvariant : Prop :=
  ∀ s t : State, s.Inv → step s = .next t → t.Inv

/-- R202, R104, R55, R56: from a state that meets the invariant no event fails, so the model's one fault (log 10) is never
reached. -/
def Obligations.NoEventFails : Prop :=
  ∀ s : State, s.Inv → ∃ t, step s = .next t

/-- R105: every accepted command completes, unless reset intervenes: within one event more than the host moves allowed by
`turns`, BUSY is 0 and DONE is 1. That `turns` is a finite list is the model's form of R105's fairness (log 4). -/
def Obligations.AcceptedCommandCompletes : Prop :=
  ∀ s : State, s.Inv → s.inflight ≠ none → (∀ op ∈ s.host, op ≠ .reset) →
    ∃ n ≤ s.turns.length + 1, ∃ t : State, core.run n s = .next t ∧ t.inflight = none ∧ t.status.done = true

/-- R85: `WAIT` ends, having read a STATUS with BUSY = 0. The list `turns` (log 4) and the loop as a host operation (log 12)
are the model's. -/
def Obligations.WaitEnds : Prop :=
  ∀ (s : State) (rest : List HostOp), s.Inv → s.host = .wait :: rest →
    ∃ n ≤ s.turns.length + 2, ∃ t : State, core.run n s = .next t ∧ t.host = rest ∧ t.inflight = none ∧
      t.rdata.testBit 0 = false

/-- R35, R36, R37, R39: RESULT changes only at the completion of MODPOW, and BASE_ROOT, NBITS and ROOT only at the
completion of PRECOMPUTE_ROOTS or NTT_TRANSFORM; or at reset. -/
def Obligations.ResultsWrittenOnlyByCompletion : Prop :=
  ∀ s t : State, step s = .next t → (∀ rest, s.host ≠ .reset :: rest) →
    (t.result ≠ s.result → s.inflight = some .modpow ∧ t.inflight = none) ∧
    ((t.baseRoot ≠ s.baseRoot ∨ t.nbits ≠ s.nbits ∨ t.root ≠ s.root) →
      (s.inflight = some .precomputeRoots ∨ s.inflight = some .nttTransform) ∧ t.inflight = none)

/-- R40: an entry of SEQ changes only by a host write to it while idle, by the completion of a transform that covers it, or
by reset. -/
def Obligations.SequenceChangesOnlyBy : Prop :=
  ∀ (s t : State) (k : Nat), step s = .next t → seqRead t k ≠ seqRead s k →
    (∃ rest, s.host = .reset :: rest) ∨
    (s.inflight = none ∧ ∃ a v rest, s.host = .write a v :: rest ∧ locate s.cfg a = .seq k ∧
      seqRead t k = v % s.cfg.bound) ∨
    (s.inflight = some .nttTransform ∧ t.inflight = none ∧ k < s.len)

/-- The operand registers "only the host and reset" write: each changes only by a host write to its address while idle, or
by reset (10_state.md section 5; R30 to R34). -/
def Obligations.OperandsWrittenOnlyByHost : Prop :=
  ∀ s t : State, step s = .next t → (∀ rest, s.host ≠ .reset :: rest) →
    (t.mod ≠ s.mod ∨ t.gen ≠ s.gen ∨ t.len ≠ s.len ∨ t.base ≠ s.base ∨ t.exp ≠ s.exp) →
    s.inflight = none ∧ ∃ a v rest, s.host = .write a v :: rest ∧ 0x003 ≤ a.toNat ∧ a.toNat ≤ 0x007

/-- R200, R26, R28: ERR rises only by a CMD write while BUSY is 0, with ERRCODE the code of Validate. -/
def Obligations.ErrorRaisedOnlyByCommandWrite : Prop :=
  ∀ s t : State, step s = .next t → s.status.err = false → t.status.err = true →
    s.inflight = none ∧ ∃ v rest, s.host = .write cmdAddr v :: rest ∧
      validate s (v % s.cfg.bound) ≠ .none ∧ t.status.errCode = validate s (v % s.cfg.bound)

/-- R25: DONE rises only at the completion of the command in flight. -/
def Obligations.DoneSetOnlyByCompletion : Prop :=
  ∀ s t : State, step s = .next t → s.status.done = false → t.status.done = true →
    ∃ i, s.inflight = some i ∧ t.inflight = none ∧ exec i { s with turns := s.turns.tail } = .next t

/-- R27: ACCV rises only where a write is dropped because BUSY is 1, and falls only by a STATUS write whose bit 3 is 1 or by
reset. -/
def Obligations.AccvSetAndCleared : Prop :=
  ∀ s t : State, step s = .next t →
    (s.status.accv = false → t.status.accv = true →
      s.inflight ≠ none ∧ ∃ a v rest, s.host = .write a v :: rest ∧
        ((0x003 ≤ a.toNat ∧ a.toNat ≤ 0x007) ∨ a.toNat = 0x001 ∨
          (0x1000 ≤ a.toNat ∧ a.toNat < 0x1000 + s.cfg.nMax))) ∧
    (s.status.accv = true → t.status.accv = false →
      (∃ rest, s.host = .reset :: rest) ∨
      ∃ v rest, s.host = .write statusAddr v :: rest ∧ (v % s.cfg.bound).testBit 3 = true)

/-- R41: INFLIGHT leaves NONE only by the acceptance of a command word written to CMD, and returns only by its completion or
by reset. -/
def Obligations.InFlightSetOnlyByAcceptance : Prop :=
  ∀ s t : State, step s = .next t →
    (∀ i, s.inflight = none → t.inflight = some i →
      operandsOk i s ∧ ∃ v rest, s.host = .write cmdAddr v :: rest ∧ v % s.cfg.bound = encode i) ∧
    (∀ i, s.inflight = some i → t.inflight = some i ∨ (t.inflight = none ∧
      ((∃ rest, s.host = .reset :: rest) ∨ t.status.done = true)))
end

