-- ==== Sys2Proof/Laws/Arith.lean ====
section
/-! SUPPORT. What the arithmetic of the block does: one lemma per function. -/

namespace Sys2Proof.Machine

theorem reduce_natCast (a q : Nat) : reduce (a : Int) q = a % q := by
  simp only [reduce, ← Int.natCast_emod, Int.toNat_natCast]

theorem natCast_reduce {q : Nat} (hq : 0 < q) (x : Int) : (reduce x q : Int) = x % q :=
  Int.toNat_of_nonneg (Int.emod_nonneg x (by omega))

theorem reduce_lt {q : Nat} (hq : 0 < q) (x : Int) : reduce x q < q := by
  have h := natCast_reduce hq x
  have := Int.emod_lt_of_pos x (show (0 : Int) < q by omega)
  omega

/-- Everything the square-and-multiply loop does, when its fuel covers the exponent (R120). -/
theorem modpowLoop_spec (q : Nat) : ∀ (fuel r acc e : Nat), e < 2 ^ fuel → r < q →
    modpowLoop q fuel r acc e = r * acc ^ e % q
  | 0, r, acc, e, he, hr => by
    obtain rfl : e = 0 := by simpa using he
    simp [modpowLoop, Nat.mod_eq_of_lt hr]
  | fuel + 1, r, acc, e, he, hr => by
    have hq : 0 < q := by omega
    unfold modpowLoop
    split
    · have hhalf : e / 2 < 2 ^ fuel := by rw [pow_succ] at he; omega
      have hsplit : acc ^ e = acc ^ (e % 2) * (acc * acc) ^ (e / 2) := by
        rw [← pow_two, ← pow_mul, ← pow_add, Nat.mod_add_div]
      have hr' : (if e % 2 = 1 then reduce ((r * acc : Nat) : Int) q else r) < q := by
        split
        · exact reduce_lt hq _
        · exact hr
      rw [modpowLoop_spec q fuel _ _ _ hhalf hr', hsplit]
      simp only [reduce_natCast]
      have key : (acc * acc % q) ^ (e / 2) ≡ (acc * acc) ^ (e / 2) [MOD q] := (Nat.mod_modEq _ _).pow _
      rcases Nat.mod_two_eq_zero_or_one e with h | h
      · rw [h, if_neg (by omega), pow_zero, one_mul]
        exact key.mul_left r
      · rw [h, if_pos rfl, pow_one, ← mul_assoc]
        exact (Nat.mod_modEq (r * acc) q).mul key
    · obtain rfl : e = 0 := by omega
      simp [Nat.mod_eq_of_lt hr]

@[simp] theorem butterflyAt_length (q root stride : Nat) (res : List Nat) (pair : Nat × Nat) :
    (butterflyAt q root stride res pair).length = res.length := by
  simp [butterflyAt]

theorem foldl_butterflyAt_length (q root stride : Nat) (pairs : List (Nat × Nat)) (res : List Nat) :
    (pairs.foldl (butterflyAt q root stride) res).length = res.length := by
  induction pairs generalizing res with
  | nil => rfl
  | cons p ps ih => simp [ih]

@[simp] theorem stage_length (n q root stride : Nat) (res : List Nat) :
    (stage n q root stride res).length = res.length :=
  foldl_butterflyAt_length q root stride _ res

@[simp] theorem stageLoop_length (table : List Nat) (n q left stride : Nat) (res : List Nat) :
    (stageLoop table n q left stride res).length = res.length := by
  induction left generalizing stride res with
  | zero => rfl
  | succ left ih =>
    unfold stageLoop
    split
    · simp [ih]
    · rfl

/-- "length is invariant across the transform" (R169). -/
@[simp] theorem butterflyNetwork_length (res table : List Nat) (n q : Nat) :
    (butterflyNetwork res table n q).length = res.length :=
  stageLoop_length table n q _ _ res

/-- Both outputs of a butterfly lie below the modulus (R6, R162). -/
theorem butterfly_lt {q : Nat} (hq : 0 < q) (a b tw : Nat) :
    (butterfly a b tw q).1 < q ∧ (butterfly a b tw q).2 < q := by
  simp only [butterfly]
  exact ⟨reduce_lt hq _, reduce_lt hq _⟩

/-- A butterfly keeps every entry below a bound that the modulus does not exceed. -/
theorem butterflyAt_all_lt {q root stride B : Nat} (hq : 0 < q) (hB : q ≤ B) {res : List Nat} (h : ∀ w ∈ res, w < B)
    (pair : Nat × Nat) : ∀ w ∈ butterflyAt q root stride res pair, w < B := by
  intro w hw
  have hb := butterfly_lt hq (res.getD (pair.1 + pair.2) 0) (res.getD (pair.1 + pair.2 + stride) 0)
    (modpow root pair.2 q)
  rcases List.mem_or_eq_of_mem_set hw with hw | rfl
  · rcases List.mem_or_eq_of_mem_set hw with hw | rfl
    · exact h w hw
    · exact hb.1.trans_le hB
  · exact hb.2.trans_le hB

theorem foldl_butterflyAt_all_lt {q root stride B : Nat} (hq : 0 < q) (hB : q ≤ B) (pairs : List (Nat × Nat)) :
    ∀ {res : List Nat}, (∀ w ∈ res, w < B) → ∀ w ∈ pairs.foldl (butterflyAt q root stride) res, w < B := by
  induction pairs with
  | nil => intro res h; simpa using h
  | cons p ps ih => intro res h; exact ih (butterflyAt_all_lt hq hB h p)

theorem stageLoop_all_lt {q B : Nat} (hq : 0 < q) (hB : q ≤ B) (table : List Nat) (n left : Nat) :
    ∀ (stride : Nat) {res : List Nat}, (∀ w ∈ res, w < B) → ∀ w ∈ stageLoop table n q left stride res, w < B := by
  induction left with
  | zero => intro stride res h; simpa [stageLoop] using h
  | succ left ih =>
    intro stride res h
    unfold stageLoop
    split
    · exact ih _ (foldl_butterflyAt_all_lt hq hB _ h)
    · exact h

/-- The network keeps every entry below a bound that the modulus does not exceed. -/
theorem butterflyNetwork_all_lt {q B : Nat} (hq : 0 < q) (hB : q ≤ B) {res : List Nat} (h : ∀ w ∈ res, w < B)
    (table : List Nat) (n : Nat) : ∀ w ∈ butterflyNetwork res table n q, w < B :=
  stageLoop_all_lt hq hB table n _ _ h

/-! ### What one stage computes (R160, R165) -/

/-- Two butterflies of one stage that share no entry. -/
def Apart (stride : Nat) (a b : Nat × Nat) : Prop :=
  a.1 + a.2 ≠ b.1 + b.2 ∧ a.1 + a.2 ≠ b.1 + b.2 + stride ∧ a.1 + a.2 + stride ≠ b.1 + b.2

theorem getD_set (l : List Nat) (i k v : Nat) :
    (l.set i v).getD k 0 = if k = i ∧ i < l.length then v else l.getD k 0 := by
  rw [List.getD, List.getElem?_set]
  by_cases h : i = k
  · subst h
    by_cases hi : i < l.length
    · simp [hi]
    · simp [hi]
  · rw [if_neg h, if_neg fun hk => h hk.1.symm, List.getD]

/-- Everything one butterfly changes: its own two entries (R160, R162). -/
theorem butterflyAt_getD (q root stride : Nat) (res : List Nat) (p : Nat × Nat) (k : Nat) :
    let out := butterfly (res.getD (p.1 + p.2) 0) (res.getD (p.1 + p.2 + stride) 0) (modpow root p.2 q) q
    (butterflyAt q root stride res p).getD k 0
      = if k = p.1 + p.2 + stride ∧ p.1 + p.2 + stride < res.length then out.2
        else if k = p.1 + p.2 ∧ p.1 + p.2 < res.length then out.1
        else res.getD k 0 := by
  simp only [butterflyAt, getD_set, List.length_set]

/-- A butterfly leaves every entry but its own two. -/
theorem butterflyAt_getD_other {q root stride k : Nat} {res : List Nat} {p : Nat × Nat} (h1 : k ≠ p.1 + p.2)
    (h2 : k ≠ p.1 + p.2 + stride) : (butterflyAt q root stride res p).getD k 0 = res.getD k 0 := by
  rw [butterflyAt_getD, if_neg fun h => h2 h.1, if_neg fun h => h1 h.1]

theorem foldl_butterflyAt_getD_other {q root stride k : Nat} (pairs : List (Nat × Nat)) (res : List Nat)
    (h : ∀ p ∈ pairs, k ≠ p.1 + p.2 ∧ k ≠ p.1 + p.2 + stride) :
    (pairs.foldl (butterflyAt q root stride) res).getD k 0 = res.getD k 0 := by
  induction pairs generalizing res with
  | nil => rfl
  | cons p ps ih =>
    have hp := h p (List.mem_cons_self ..)
    rw [List.foldl_cons, ih _ fun p' hp' => h p' (List.mem_cons_of_mem _ hp'), butterflyAt_getD_other hp.1 hp.2]

/-- Butterflies that share no entry each read the values from before all of them. -/
theorem foldl_butterflyAt_getD {q root stride : Nat} (hs : 0 < stride) {pairs : List (Nat × Nat)}
    (hpairs : pairs.Pairwise (Apart stride)) (res : List Nat) {p : Nat × Nat} (hp : p ∈ pairs)
    (hin : p.1 + p.2 + stride < res.length) :
    let out := butterfly (res.getD (p.1 + p.2) 0) (res.getD (p.1 + p.2 + stride) 0) (modpow root p.2 q) q
    (pairs.foldl (butterflyAt q root stride) res).getD (p.1 + p.2) 0 = out.1 ∧
    (pairs.foldl (butterflyAt q root stride) res).getD (p.1 + p.2 + stride) 0 = out.2 := by
  induction pairs generalizing res with
  | nil => cases hp
  | cons p0 ps ih =>
    have hc := List.pairwise_cons.mp hpairs
    rw [List.foldl_cons]
    rcases List.mem_cons.mp hp with rfl | hmem
    · have apart : ∀ p' ∈ ps, Apart stride p p' := hc.1
      rw [foldl_butterflyAt_getD_other ps _ fun p' hp' => ⟨(apart p' hp').1, (apart p' hp').2.1⟩,
        foldl_butterflyAt_getD_other ps _ fun p' hp' => ⟨(apart p' hp').2.2, by have := (apart p' hp').1; omega⟩]
      constructor
      · rw [butterflyAt_getD, if_neg (by omega), if_pos ⟨rfl, by omega⟩]
      · rw [butterflyAt_getD, if_pos ⟨rfl, hin⟩]
    · have hap : Apart stride p0 p := hc.1 p hmem
      have h := ih hc.2 (butterflyAt q root stride res p0) hmem (by simpa using hin)
      rwa [butterflyAt_getD_other (Ne.symm hap.1) (Ne.symm hap.2.2),
        butterflyAt_getD_other (Ne.symm hap.2.1) (by have := hap.1; omega)] at h

/-- "the butterflies touch disjoint pairs" (R165). -/
theorem stagePairs_apart {n stride : Nat} (hs : 0 < stride) : (stagePairs n stride).Pairwise (Apart stride) := by
  unfold stagePairs
  rw [List.pairwise_flatMap]
  constructor
  · intro block _
    rw [List.pairwise_map]
    refine List.Pairwise.imp_of_mem (fun ha hb hab => ?_) (List.pairwise_lt_range (n := stride))
    have ha := List.mem_range.mp ha
    have hb := List.mem_range.mp hb
    refine ⟨?_, ?_, ?_⟩ <;> dsimp only <;> omega
  · refine List.Pairwise.imp (fun {x y} hxy => ?_) (List.pairwise_lt_range (n := n / (2 * stride)))
    intro a ha b hb
    simp only [List.mem_map, List.mem_range] at ha hb
    obtain ⟨j, hj, rfl⟩ := ha
    obtain ⟨l, hl, rfl⟩ := hb
    have hmul : (x + 1) * (2 * stride) ≤ y * (2 * stride) := Nat.mul_le_mul_right _ hxy
    rw [Nat.add_mul, one_mul] at hmul
    refine ⟨?_, ?_, ?_⟩ <;> dsimp only <;> omega

/-- Everything one stage computes: the pair at block `b` and offset `j` becomes its butterfly of the values before the
stage (R160). -/
theorem stage_getD {n q root stride b j : Nat} {res : List Nat} (hb : b < n / (2 * stride)) (hj : j < stride)
    (hlen : res.length = n) :
    let i := b * (2 * stride) + j
    let out := butterfly (res.getD i 0) (res.getD (i + stride) 0) (modpow root j q) q
    (stage n q root stride res).getD i 0 = out.1 ∧ (stage n q root stride res).getD (i + stride) 0 = out.2 := by
  have hs : 0 < stride := by omega
  have hmem : (b * (2 * stride), j) ∈ stagePairs n stride := by
    simp only [stagePairs, List.mem_flatMap, List.mem_range, List.mem_map]
    exact ⟨b, hb, j, hj, rfl⟩
  have hfit : b * (2 * stride) + j + stride < res.length := by
    have h1 : (b + 1) * (2 * stride) ≤ n / (2 * stride) * (2 * stride) := Nat.mul_le_mul_right _ hb
    have h2 := Nat.div_mul_le_self n (2 * stride)
    rw [Nat.add_mul, one_mul] at h1
    omega
  exact foldl_butterflyAt_getD hs (stagePairs_apart hs) res hmem hfit

@[simp] theorem rootTable_nbits (g n q : Nat) : (rootTable g n q).nbits = log2 n := rfl

@[simp] theorem rootTable_baseRoot (g n q : Nat) : (rootTable g n q).baseRoot = modpow g (n - 1) q := rfl

@[simp] theorem rootTable_table_length (g n q : Nat) : (rootTable g n q).table.length = log2 n := by
  simp [rootTable]

theorem rootTable_table_getD {g n q i : Nat} (h : i < log2 n) :
    (rootTable g n q).table.getD i 0 = modpow (modpow g (n - 1) q) (2 ^ i) q := by
  simp [rootTable, List.getD, h]

end Sys2Proof.Machine
end

