-- ==== Sys2Proof/Laws/State.lean ====
section
/-! SUPPORT. Beside State: what each named update does to each field, true by rfl, so that no later proof unfolds a record
update. -/

namespace Sys2Proof.Machine

@[simp] theorem accept_cfg (i : Instr) (s : State) : (accept i s).cfg = s.cfg := rfl
@[simp] theorem accept_status (i : Instr) (s : State) : (accept i s).status = acceptedStatus s.status := rfl
@[simp] theorem accept_mod (i : Instr) (s : State) : (accept i s).mod = s.mod := rfl
@[simp] theorem accept_gen (i : Instr) (s : State) : (accept i s).gen = s.gen := rfl
@[simp] theorem accept_len (i : Instr) (s : State) : (accept i s).len = s.len := rfl
@[simp] theorem accept_base (i : Instr) (s : State) : (accept i s).base = s.base := rfl
@[simp] theorem accept_exp (i : Instr) (s : State) : (accept i s).exp = s.exp := rfl
@[simp] theorem accept_result (i : Instr) (s : State) : (accept i s).result = s.result := rfl
@[simp] theorem accept_baseRoot (i : Instr) (s : State) : (accept i s).baseRoot = s.baseRoot := rfl
@[simp] theorem accept_nbits (i : Instr) (s : State) : (accept i s).nbits = s.nbits := rfl
@[simp] theorem accept_root (i : Instr) (s : State) : (accept i s).root = s.root := rfl
@[simp] theorem accept_seq (i : Instr) (s : State) : (accept i s).seq = s.seq := rfl
@[simp] theorem accept_inflight (i : Instr) (s : State) : (accept i s).inflight = some i := rfl
@[simp] theorem accept_host (i : Instr) (s : State) : (accept i s).host = s.host := rfl
@[simp] theorem accept_turns (i : Instr) (s : State) : (accept i s).turns = s.turns := rfl
@[simp] theorem accept_rdata (i : Instr) (s : State) : (accept i s).rdata = s.rdata := rfl
@[simp] theorem accept_resets (i : Instr) (s : State) : (accept i s).resets = s.resets := rfl
@[simp] theorem accept_draws (i : Instr) (s : State) : (accept i s).draws = s.draws := rfl

@[simp] theorem reject_cfg (code : ErrCode) (s : State) : (reject code s).cfg = s.cfg := rfl
@[simp] theorem reject_status (code : ErrCode) (s : State) : (reject code s).status = rejectedStatus s.status code := rfl
@[simp] theorem reject_mod (code : ErrCode) (s : State) : (reject code s).mod = s.mod := rfl
@[simp] theorem reject_gen (code : ErrCode) (s : State) : (reject code s).gen = s.gen := rfl
@[simp] theorem reject_len (code : ErrCode) (s : State) : (reject code s).len = s.len := rfl
@[simp] theorem reject_base (code : ErrCode) (s : State) : (reject code s).base = s.base := rfl
@[simp] theorem reject_exp (code : ErrCode) (s : State) : (reject code s).exp = s.exp := rfl
@[simp] theorem reject_result (code : ErrCode) (s : State) : (reject code s).result = s.result := rfl
@[simp] theorem reject_baseRoot (code : ErrCode) (s : State) : (reject code s).baseRoot = s.baseRoot := rfl
@[simp] theorem reject_nbits (code : ErrCode) (s : State) : (reject code s).nbits = s.nbits := rfl
@[simp] theorem reject_root (code : ErrCode) (s : State) : (reject code s).root = s.root := rfl
@[simp] theorem reject_seq (code : ErrCode) (s : State) : (reject code s).seq = s.seq := rfl
@[simp] theorem reject_inflight (code : ErrCode) (s : State) : (reject code s).inflight = s.inflight := rfl
@[simp] theorem reject_host (code : ErrCode) (s : State) : (reject code s).host = s.host := rfl
@[simp] theorem reject_turns (code : ErrCode) (s : State) : (reject code s).turns = s.turns := rfl
@[simp] theorem reject_rdata (code : ErrCode) (s : State) : (reject code s).rdata = s.rdata := rfl
@[simp] theorem reject_resets (code : ErrCode) (s : State) : (reject code s).resets = s.resets := rfl
@[simp] theorem reject_draws (code : ErrCode) (s : State) : (reject code s).draws = s.draws := rfl

@[simp] theorem finish_cfg (s : State) : (finish s).cfg = s.cfg := rfl
@[simp] theorem finish_status (s : State) : (finish s).status = completedStatus s.status := rfl
@[simp] theorem finish_mod (s : State) : (finish s).mod = s.mod := rfl
@[simp] theorem finish_gen (s : State) : (finish s).gen = s.gen := rfl
@[simp] theorem finish_len (s : State) : (finish s).len = s.len := rfl
@[simp] theorem finish_base (s : State) : (finish s).base = s.base := rfl
@[simp] theorem finish_exp (s : State) : (finish s).exp = s.exp := rfl
@[simp] theorem finish_result (s : State) : (finish s).result = s.result := rfl
@[simp] theorem finish_baseRoot (s : State) : (finish s).baseRoot = s.baseRoot := rfl
@[simp] theorem finish_nbits (s : State) : (finish s).nbits = s.nbits := rfl
@[simp] theorem finish_root (s : State) : (finish s).root = s.root := rfl
@[simp] theorem finish_seq (s : State) : (finish s).seq = s.seq := rfl
@[simp] theorem finish_inflight (s : State) : (finish s).inflight = none := rfl
@[simp] theorem finish_host (s : State) : (finish s).host = s.host := rfl
@[simp] theorem finish_turns (s : State) : (finish s).turns = s.turns := rfl
@[simp] theorem finish_rdata (s : State) : (finish s).rdata = s.rdata := rfl
@[simp] theorem finish_resets (s : State) : (finish s).resets = s.resets := rfl
@[simp] theorem finish_draws (s : State) : (finish s).draws = s.draws := rfl

@[simp] theorem dropWrite_cfg (s : State) : (dropWrite s).cfg = s.cfg := rfl
@[simp] theorem dropWrite_status (s : State) : (dropWrite s).status = droppedStatus s.status := rfl
@[simp] theorem dropWrite_mod (s : State) : (dropWrite s).mod = s.mod := rfl
@[simp] theorem dropWrite_gen (s : State) : (dropWrite s).gen = s.gen := rfl
@[simp] theorem dropWrite_len (s : State) : (dropWrite s).len = s.len := rfl
@[simp] theorem dropWrite_base (s : State) : (dropWrite s).base = s.base := rfl
@[simp] theorem dropWrite_exp (s : State) : (dropWrite s).exp = s.exp := rfl
@[simp] theorem dropWrite_result (s : State) : (dropWrite s).result = s.result := rfl
@[simp] theorem dropWrite_baseRoot (s : State) : (dropWrite s).baseRoot = s.baseRoot := rfl
@[simp] theorem dropWrite_nbits (s : State) : (dropWrite s).nbits = s.nbits := rfl
@[simp] theorem dropWrite_root (s : State) : (dropWrite s).root = s.root := rfl
@[simp] theorem dropWrite_seq (s : State) : (dropWrite s).seq = s.seq := rfl
@[simp] theorem dropWrite_inflight (s : State) : (dropWrite s).inflight = s.inflight := rfl
@[simp] theorem dropWrite_host (s : State) : (dropWrite s).host = s.host := rfl
@[simp] theorem dropWrite_turns (s : State) : (dropWrite s).turns = s.turns := rfl
@[simp] theorem dropWrite_rdata (s : State) : (dropWrite s).rdata = s.rdata := rfl
@[simp] theorem dropWrite_resets (s : State) : (dropWrite s).resets = s.resets := rfl
@[simp] theorem dropWrite_draws (s : State) : (dropWrite s).draws = s.draws := rfl

@[simp] theorem seqWrite_cfg (s : State) (k : Nat) (v : Nat) : (seqWrite s k v).cfg = s.cfg := rfl
@[simp] theorem seqWrite_status (s : State) (k : Nat) (v : Nat) : (seqWrite s k v).status = s.status := rfl
@[simp] theorem seqWrite_mod (s : State) (k : Nat) (v : Nat) : (seqWrite s k v).mod = s.mod := rfl
@[simp] theorem seqWrite_gen (s : State) (k : Nat) (v : Nat) : (seqWrite s k v).gen = s.gen := rfl
@[simp] theorem seqWrite_len (s : State) (k : Nat) (v : Nat) : (seqWrite s k v).len = s.len := rfl
@[simp] theorem seqWrite_base (s : State) (k : Nat) (v : Nat) : (seqWrite s k v).base = s.base := rfl
@[simp] theorem seqWrite_exp (s : State) (k : Nat) (v : Nat) : (seqWrite s k v).exp = s.exp := rfl
@[simp] theorem seqWrite_result (s : State) (k : Nat) (v : Nat) : (seqWrite s k v).result = s.result := rfl
@[simp] theorem seqWrite_baseRoot (s : State) (k : Nat) (v : Nat) : (seqWrite s k v).baseRoot = s.baseRoot := rfl
@[simp] theorem seqWrite_nbits (s : State) (k : Nat) (v : Nat) : (seqWrite s k v).nbits = s.nbits := rfl
@[simp] theorem seqWrite_root (s : State) (k : Nat) (v : Nat) : (seqWrite s k v).root = s.root := rfl
@[simp] theorem seqWrite_seq (s : State) (k : Nat) (v : Nat) : (seqWrite s k v).seq = s.seq.write k v := rfl
@[simp] theorem seqWrite_inflight (s : State) (k : Nat) (v : Nat) : (seqWrite s k v).inflight = s.inflight := rfl
@[simp] theorem seqWrite_host (s : State) (k : Nat) (v : Nat) : (seqWrite s k v).host = s.host := rfl
@[simp] theorem seqWrite_turns (s : State) (k : Nat) (v : Nat) : (seqWrite s k v).turns = s.turns := rfl
@[simp] theorem seqWrite_rdata (s : State) (k : Nat) (v : Nat) : (seqWrite s k v).rdata = s.rdata := rfl
@[simp] theorem seqWrite_resets (s : State) (k : Nat) (v : Nat) : (seqWrite s k v).resets = s.resets := rfl
@[simp] theorem seqWrite_draws (s : State) (k : Nat) (v : Nat) : (seqWrite s k v).draws = s.draws := rfl

@[simp] theorem performModpow_cfg (s : State) : (performModpow s).cfg = s.cfg := rfl
@[simp] theorem performModpow_status (s : State) : (performModpow s).status = s.status := rfl
@[simp] theorem performModpow_mod (s : State) : (performModpow s).mod = s.mod := rfl
@[simp] theorem performModpow_gen (s : State) : (performModpow s).gen = s.gen := rfl
@[simp] theorem performModpow_len (s : State) : (performModpow s).len = s.len := rfl
@[simp] theorem performModpow_base (s : State) : (performModpow s).base = s.base := rfl
@[simp] theorem performModpow_exp (s : State) : (performModpow s).exp = s.exp := rfl
@[simp] theorem performModpow_result (s : State) : (performModpow s).result = modpow s.base s.exp s.mod := rfl
@[simp] theorem performModpow_baseRoot (s : State) : (performModpow s).baseRoot = s.baseRoot := rfl
@[simp] theorem performModpow_nbits (s : State) : (performModpow s).nbits = s.nbits := rfl
@[simp] theorem performModpow_root (s : State) : (performModpow s).root = s.root := rfl
@[simp] theorem performModpow_seq (s : State) : (performModpow s).seq = s.seq := rfl
@[simp] theorem performModpow_inflight (s : State) : (performModpow s).inflight = s.inflight := rfl
@[simp] theorem performModpow_host (s : State) : (performModpow s).host = s.host := rfl
@[simp] theorem performModpow_turns (s : State) : (performModpow s).turns = s.turns := rfl
@[simp] theorem performModpow_rdata (s : State) : (performModpow s).rdata = s.rdata := rfl
@[simp] theorem performModpow_resets (s : State) : (performModpow s).resets = s.resets := rfl
@[simp] theorem performModpow_draws (s : State) : (performModpow s).draws = s.draws := rfl

@[simp] theorem performPrecompute_cfg (s : State) : (performPrecompute s).cfg = s.cfg := rfl
@[simp] theorem performPrecompute_status (s : State) : (performPrecompute s).status = s.status := rfl
@[simp] theorem performPrecompute_mod (s : State) : (performPrecompute s).mod = s.mod := rfl
@[simp] theorem performPrecompute_gen (s : State) : (performPrecompute s).gen = s.gen := rfl
@[simp] theorem performPrecompute_len (s : State) : (performPrecompute s).len = s.len := rfl
@[simp] theorem performPrecompute_base (s : State) : (performPrecompute s).base = s.base := rfl
@[simp] theorem performPrecompute_exp (s : State) : (performPrecompute s).exp = s.exp := rfl
@[simp] theorem performPrecompute_result (s : State) : (performPrecompute s).result = s.result := rfl
@[simp] theorem performPrecompute_baseRoot (s : State) : (performPrecompute s).baseRoot = modpow s.gen (s.len - 1) s.mod := rfl
@[simp] theorem performPrecompute_nbits (s : State) : (performPrecompute s).nbits = log2 s.len := rfl
@[simp] theorem performPrecompute_root (s : State) : (performPrecompute s).root = rootEntries s.cfg (rootTable s.gen s.len s.mod) := rfl
@[simp] theorem performPrecompute_seq (s : State) : (performPrecompute s).seq = s.seq := rfl
@[simp] theorem performPrecompute_inflight (s : State) : (performPrecompute s).inflight = s.inflight := rfl
@[simp] theorem performPrecompute_host (s : State) : (performPrecompute s).host = s.host := rfl
@[simp] theorem performPrecompute_turns (s : State) : (performPrecompute s).turns = s.turns := rfl
@[simp] theorem performPrecompute_rdata (s : State) : (performPrecompute s).rdata = s.rdata := rfl
@[simp] theorem performPrecompute_resets (s : State) : (performPrecompute s).resets = s.resets := rfl
@[simp] theorem performPrecompute_draws (s : State) : (performPrecompute s).draws = s.draws := rfl

@[simp] theorem applyReset_cfg (s : State) : (applyReset s).cfg = s.cfg := rfl
@[simp] theorem applyReset_status (s : State) : (applyReset s).status = { done := false, err := false, accv := false, errCode := .none } := rfl
@[simp] theorem applyReset_mod (s : State) : (applyReset s).mod = 0 := rfl
@[simp] theorem applyReset_gen (s : State) : (applyReset s).gen = 0 := rfl
@[simp] theorem applyReset_len (s : State) : (applyReset s).len = 0 := rfl
@[simp] theorem applyReset_base (s : State) : (applyReset s).base = 0 := rfl
@[simp] theorem applyReset_exp (s : State) : (applyReset s).exp = 0 := rfl
@[simp] theorem applyReset_result (s : State) : (applyReset s).result = 0 := rfl
@[simp] theorem applyReset_baseRoot (s : State) : (applyReset s).baseRoot = 0 := rfl
@[simp] theorem applyReset_nbits (s : State) : (applyReset s).nbits = 0 := rfl
@[simp] theorem applyReset_root (s : State) : (applyReset s).root = List.replicate s.cfg.logNMax 0 := rfl
@[simp] theorem applyReset_seq (s : State) : (applyReset s).seq = [] := rfl
@[simp] theorem applyReset_inflight (s : State) : (applyReset s).inflight = none := rfl
@[simp] theorem applyReset_host (s : State) : (applyReset s).host = s.host := rfl
@[simp] theorem applyReset_turns (s : State) : (applyReset s).turns = s.turns := rfl
@[simp] theorem applyReset_rdata (s : State) : (applyReset s).rdata = s.rdata := rfl
@[simp] theorem applyReset_resets (s : State) : (applyReset s).resets = s.resets + 1 := rfl
@[simp] theorem applyReset_draws (s : State) : (applyReset s).draws = s.draws := rfl

@[simp] theorem acceptedStatus_done (st : Status) : (acceptedStatus st).done = false := rfl
@[simp] theorem acceptedStatus_err (st : Status) : (acceptedStatus st).err = false := rfl
@[simp] theorem acceptedStatus_accv (st : Status) : (acceptedStatus st).accv = st.accv := rfl
@[simp] theorem acceptedStatus_errCode (st : Status) : (acceptedStatus st).errCode = ErrCode.none := rfl

@[simp] theorem rejectedStatus_done (st : Status) (code : ErrCode) : (rejectedStatus st code).done = false := rfl
@[simp] theorem rejectedStatus_err (st : Status) (code : ErrCode) : (rejectedStatus st code).err = true := rfl
@[simp] theorem rejectedStatus_accv (st : Status) (code : ErrCode) : (rejectedStatus st code).accv = st.accv := rfl
@[simp] theorem rejectedStatus_errCode (st : Status) (code : ErrCode) : (rejectedStatus st code).errCode = code := rfl

@[simp] theorem completedStatus_done (st : Status) : (completedStatus st).done = true := rfl
@[simp] theorem completedStatus_err (st : Status) : (completedStatus st).err = st.err := rfl
@[simp] theorem completedStatus_accv (st : Status) : (completedStatus st).accv = st.accv := rfl
@[simp] theorem completedStatus_errCode (st : Status) : (completedStatus st).errCode = st.errCode := rfl

@[simp] theorem droppedStatus_done (st : Status) : (droppedStatus st).done = st.done := rfl
@[simp] theorem droppedStatus_err (st : Status) : (droppedStatus st).err = st.err := rfl
@[simp] theorem droppedStatus_accv (st : Status) : (droppedStatus st).accv = true := rfl
@[simp] theorem droppedStatus_errCode (st : Status) : (droppedStatus st).errCode = st.errCode := rfl

end Sys2Proof.Machine
end

