-- ==== Sys2Proof/Laws/Memory.lean ====
section
/-! SUPPORT. The sequence buffer: read after write, the canonical form, and what a run of writes does. -/

namespace Sys2Proof.Machine

@[simp] theorem Mem.read_write_same (m : Mem) (k : Nat) (v : Nat) : (m.write k v).read k = some v := by
  induction m with
  | nil => simp [Mem.write, Mem.read]
  | cons c m ih =>
    obtain ⟨j, w⟩ := c
    unfold Mem.write
    split_ifs with h1 h2
    · simp [Mem.read]
    · simp [Mem.read]
    · simp [Mem.read, ih, Ne.symm h2]

theorem Mem.read_write_other (m : Mem) {k j : Nat} (v : Nat) (h : j ≠ k) : (m.write k v).read j = m.read j := by
  induction m with
  | nil => simp [Mem.write, Mem.read, h.symm]
  | cons c m ih =>
    obtain ⟨i, w⟩ := c
    unfold Mem.write
    split_ifs with h1 h2
    · simp [Mem.read, h.symm]
    · subst h2
      simp [Mem.read, h.symm]
    · simp [Mem.read, ih]

/-- A cell after a write is the written one or an old one. -/
theorem Mem.mem_write {m : Mem} {k : Nat} {v : Nat} {c : Nat × Nat} (h : c ∈ m.write k v) : c = (k, v) ∨ c ∈ m := by
  induction m with
  | nil => simpa [Mem.write] using h
  | cons d m ih =>
    obtain ⟨j, w⟩ := d
    unfold Mem.write at h
    split_ifs at h with h1 h2
    · simpa using h
    · rcases List.mem_cons.mp h with h | h
      · exact .inl h
      · exact .inr (List.mem_cons_of_mem _ h)
    · rcases List.mem_cons.mp h with rfl | h
      · exact .inr (List.mem_cons_self ..)
      · exact (ih h).imp_right (List.mem_cons_of_mem _)

/-- The canonical form says that the indices rise strictly. -/
theorem Mem.wf_iff_pairwise (m : Mem) : m.wf = true ↔ m.Pairwise fun a b => a.1 < b.1 := by
  induction m with
  | nil => simp [Mem.wf]
  | cons c m ih =>
    obtain ⟨i, w⟩ := c
    cases m with
    | nil => simp [Mem.wf]
    | cons d m =>
      obtain ⟨j, w'⟩ := d
      rw [List.pairwise_cons, ← ih]
      simp only [Mem.wf, Bool.and_eq_true, decide_eq_true_eq]
      constructor
      · rintro ⟨hij, hm⟩
        refine ⟨fun e he => ?_, hm⟩
        rcases List.mem_cons.mp he with rfl | he
        · exact hij
        · exact hij.trans ((List.pairwise_cons.mp (ih.mp hm)).1 e he)
      · rintro ⟨hall, hm⟩
        exact ⟨hall _ (List.mem_cons_self ..), hm⟩

/-- A write keeps the canonical form. -/
theorem Mem.write_wf {m : Mem} (h : m.wf = true) (k : Nat) (v : Nat) : (m.write k v).wf = true := by
  rw [Mem.wf_iff_pairwise] at h ⊢
  induction m with
  | nil => simp [Mem.write]
  | cons c m ih =>
    obtain ⟨j, w⟩ := c
    have hc := List.pairwise_cons.mp h
    unfold Mem.write
    split_ifs with h1 h2
    · refine List.pairwise_cons.mpr ⟨fun e he => ?_, h⟩
      rcases List.mem_cons.mp he with rfl | he
      · exact h1
      · exact h1.trans (hc.1 e he)
    · subst h2
      exact List.pairwise_cons.mpr hc
    · refine List.pairwise_cons.mpr ⟨fun e he => ?_, ih hc.2⟩
      rcases Mem.mem_write he with rfl | he
      · show j < k
        omega
      · exact hc.1 e he

/-- In canonical form a listed cell is what a read finds. -/
theorem Mem.read_eq_some_mem {m : Mem} {k : Nat} {v : Nat} (h : m.read k = some v) : (k, v) ∈ m := by
  induction m with
  | nil => simp [Mem.read] at h
  | cons c m ih =>
    obtain ⟨j, w⟩ := c
    unfold Mem.read at h
    split_ifs at h with hj
    · cases h
      subst hj
      exact List.mem_cons_self ..
    · exact List.mem_cons_of_mem _ (ih h)

/-- What SEQ[j] reads after a write of SEQ[k]. -/
theorem seqRead_seqWrite (s : State) (k : Nat) (v : Nat) (j : Nat) :
    seqRead (seqWrite s k v) j = if j = k then v else seqRead s j := by
  by_cases h : j = k
  · subst h
    simp [seqRead]
  · simp [seqRead, Mem.read_write_other _ v h, h]

/-- Everything a run of writes changes: the cells alone. -/
theorem seqWriteAll_eq (s : State) (first : Nat) (vs : List Nat) :
    seqWriteAll s first vs = { s with seq := (seqWriteAll s first vs).seq } := by
  induction vs generalizing s first with
  | nil => rfl
  | cons v vs ih =>
    unfold seqWriteAll
    rw [ih]
    rfl

/-- What SEQ[j] reads after the writes of SEQ[first ..]. -/
theorem seqRead_seqWriteAll (s : State) (first : Nat) (vs : List Nat) (j : Nat) :
    seqRead (seqWriteAll s first vs) j
      = if first ≤ j ∧ j < first + vs.length then vs.getD (j - first) 0 else seqRead s j := by
  induction vs generalizing s first with
  | nil =>
    rw [if_neg (by simp)]
    rfl
  | cons v vs ih =>
    unfold seqWriteAll
    rw [ih, seqRead_seqWrite]
    by_cases hj : j = first
    · subst hj
      simp
    · by_cases hin : first + 1 ≤ j ∧ j < first + 1 + vs.length
      · rw [if_pos hin, if_pos (by simp only [List.length_cons]; omega), show j - first = (j - (first + 1)) + 1 by omega]
        simp
      · rw [if_neg hin, if_neg hj, if_neg (by simp only [List.length_cons]; omega)]

/-- A run of writes keeps the canonical form. -/
theorem seqWriteAll_wf {s : State} (h : s.seq.wf = true) (first : Nat) (vs : List Nat) :
    (seqWriteAll s first vs).seq.wf = true := by
  induction vs generalizing s first with
  | nil => exact h
  | cons v vs ih => exact ih (Mem.write_wf h first v) (first + 1)

/-- A cell after a run of writes is an old one or one of those written. -/
theorem mem_seqWriteAll {s : State} {first : Nat} {vs : List Nat} {c : Nat × Nat}
    (h : c ∈ (seqWriteAll s first vs).seq) : c ∈ s.seq ∨ (first ≤ c.1 ∧ c.1 < first + vs.length ∧ c.2 ∈ vs) := by
  induction vs generalizing s first with
  | nil => exact .inl h
  | cons v vs ih =>
    rcases ih (s := seqWrite s first v) (first := first + 1) h with h | ⟨h1, h2, h3⟩
    · rcases Mem.mem_write h with rfl | h
      · exact .inr ⟨le_refl _, by simp, List.mem_cons_self ..⟩
      · exact .inl h
    · exact .inr ⟨by omega, by simp only [List.length_cons]; omega, List.mem_cons_of_mem _ h3⟩

@[simp] theorem seqTake_length (s : State) (n : Nat) : (seqTake s n).length = n := by simp [seqTake]

@[simp] theorem rootTake_length (s : State) : (rootTake s).length = s.nbits := by simp [rootTake]

/-- SEQ's cells are in canonical form at the model's start. -/
theorem reset_seq_wf : State.reset.seq.wf = true := rfl

/-- And after the reset event. -/
theorem applyReset_seq_wf (s : State) : (applyReset s).seq.wf = true := rfl

end Sys2Proof.Machine
end

