-- ==== Sys2Proof/Laws/Ops.lean ====
section
/-! SUPPORT. The command protocol and the events: for each shared operation, once, everything it can do. -/

namespace Sys2Proof.Machine

@[simp] theorem busy_eq_false_iff (s : State) : busy s = false ↔ s.inflight = none := by
  cases h : s.inflight <;> simp [busy, h]

@[simp] theorem busy_eq_true_iff (s : State) : busy s = true ↔ s.inflight ≠ none := by
  cases h : s.inflight <;> simp [busy, h]

theorem acceptedStatus_eq (st : Status) : acceptedStatus st = ⟨false, false, st.accv, .none⟩ := rfl

theorem rejectedStatus_eq (st : Status) (code : ErrCode) : rejectedStatus st code = ⟨false, true, st.accv, code⟩ :=
  rfl

theorem completedStatus_eq (st : Status) : completedStatus st = ⟨true, st.err, st.accv, st.errCode⟩ := rfl

theorem droppedStatus_eq (st : Status) : droppedStatus st = ⟨st.done, st.err, true, st.errCode⟩ := rfl

/-- A command word's two fields, and so the first check of `Validate`, pass for every command (R80, R81). -/
theorem validate_encode (s : State) (i : Instr) :
    validate s (encode i)
      = if i ≠ .modpow ∧ validateLength s ≠ .none then validateLength s
        else if s.mod < 2 then .invalidModulus else .none := by
  cases i <;> simp [validate, encode, commandWord, opcodeOf, opcodeField, reservedField]

/-- A command word written while idle: accepted when `Validate` passes, else rejected with its code (R101). -/
theorem present_eq (i : Instr) (s : State) :
    present i s = if validate s (encode i) = .none then accept i s else reject (validate s (encode i)) s := by
  unfold present
  cases validate s (encode i) <;> rfl

/-- Everything a command can do (R100): it is presented, completes, or is dropped. -/
theorem runCommand_next {i : Instr} {perform : State → State} {s t : State} (h : runCommand i perform s = .next t) :
    (s.inflight = none ∧ t = present i s) ∨
    (s.inflight = some i ∧ validate s (encode i) = .none ∧ t = finish (perform s)) ∨
    (∃ j, s.inflight = some j ∧ j ≠ i ∧ t = dropWrite s) := by
  unfold runCommand at h
  split at h
  · rename_i hs
    cases h
    exact .inl ⟨hs, rfl⟩
  · rename_i j hs
    split_ifs at h with hj hv
    · cases h
      exact .inr (.inl ⟨by rw [hs, hj], hv, rfl⟩)
    · cases h
      exact .inr (.inr ⟨j, hs, hj, rfl⟩)

theorem runCommand_idle {i : Instr} {perform : State → State} {s : State} (h : s.inflight = none) :
    runCommand i perform s = .next (present i s) := by
  simp [runCommand, h]

theorem runCommand_completes {i : Instr} {perform : State → State} {s : State} (h : s.inflight = some i)
    (hv : validate s (encode i) = .none) : runCommand i perform s = .next (finish (perform s)) := by
  simp [runCommand, h, hv]

theorem runCommand_dropped {i j : Instr} {perform : State → State} {s : State} (h : s.inflight = some j) (hj : j ≠ i) :
    runCommand i perform s = .next (dropWrite s) := by
  simp [runCommand, h, hj]

/-- A command stops only at its completion, and only when its operands are not validated (log 10). -/
theorem runCommand_fault {i : Instr} {perform : State → State} {s : State} {f : Fault}
    (h : runCommand i perform s = .fault f) : s.inflight = some i ∧ validate s (encode i) ≠ .none := by
  unfold runCommand at h
  split at h
  · cases h
  · rename_i j hs
    split_ifs at h with hj hv
    exact ⟨by rw [hs, hj], hv⟩

/-- The work of each command at its completion (R104). -/
def performOf : Instr → State → State
  | .modpow => performModpow
  | .precomputeRoots => performPrecompute
  | .nttTransform => performTransform

/-- Every arm of `exec` is one shared operation over its command's own work. -/
theorem exec_eq (i : Instr) (s : State) : exec i s = runCommand i (performOf i) s := by
  cases i <;> rfl

/-- Everything a transform changes: NBITS, BASE_ROOT, ROOT and SEQ alone (R161). -/
theorem performTransform_eq (s : State) :
    performTransform s = { performPrecompute s with seq := (performTransform s).seq } := by
  unfold performTransform
  exact seqWriteAll_eq _ _ _

/-- What SEQ[j] reads after a transform (R161, R169). -/
theorem seqRead_performTransform (s : State) (j : Nat) :
    seqRead (performTransform s) j
      = if j < s.len then
          (butterflyNetwork (seqTake (performPrecompute s) s.len) (rootTake (performPrecompute s)) s.len s.mod).getD j 0
        else seqRead s j := by
  unfold performTransform
  rw [seqRead_seqWriteAll]
  simp only [performPrecompute_len, performPrecompute_mod, butterflyNetwork_length, seqTake_length, zero_le, true_and,
    zero_add, Nat.sub_zero]
  rfl

/-- Everything a host read changes: `bus_rdata` and the draw counter alone (R55). -/
theorem hostRead_eq (a : Addr) (s : State) :
    hostRead a s = { s with rdata := (hostRead a s).rdata, draws := (hostRead a s).draws } := by
  unfold hostRead
  split <;> rfl

/-- The word a host read puts on `bus_rdata` (R55). -/
theorem hostRead_rdata (a : Addr) (s : State) :
    (hostRead a s).rdata = if busy s && isOutput (locate s.cfg a) then busyDraw s else peek s (locate s.cfg a) := by
  unfold hostRead
  split <;> rfl

/-- Everything a host write at a location other than CMD changes: STATUS, the operand registers and SEQ alone (R56). -/
theorem storeWrite_eq (s : State) (v : Nat) (loc : Loc) :
    storeWrite s v loc
      = { s with
          status := (storeWrite s v loc).status
          mod := (storeWrite s v loc).mod
          gen := (storeWrite s v loc).gen
          len := (storeWrite s v loc).len
          base := (storeWrite s v loc).base
          exp := (storeWrite s v loc).exp
          seq := (storeWrite s v loc).seq } := by
  unfold storeWrite
  split
  · rfl
  · cases loc <;> rfl

/-- While busy a host write changes nothing but ACCV (R27, R240, R241, R57, R58). -/
theorem storeWrite_busy {s : State} (h : s.inflight ≠ none) (v : Nat) (loc : Loc) :
    storeWrite s v loc = { s with status := (storeWrite s v loc).status } := by
  have hb : busy s = true := (busy_eq_true_iff s).mpr h
  unfold storeWrite
  cases loc <;> simp [hb, isOperand, dropWrite, poke]

/-- `WAIT` changes what a read changes, and stays on the host's list while it reads BUSY = 1 (R85). -/
theorem waitTurn_eq (s : State) :
    waitTurn s
      = { hostRead statusAddr s with
          host := if (hostRead statusAddr s).rdata.testBit 0 then .wait :: s.host else s.host } := by
  have hh : (hostRead statusAddr s).host = s.host := by rw [hostRead_eq]
  unfold waitTurn
  dsimp only
  split
  · rename_i h
    simp [hh]
  · rename_i h
    rw [← hh]

/-- A run of the machine, one event at a time. -/
theorem core_run_zero (s : State) : core.run 0 s = .next s := rfl

theorem core_run_succ {s t : State} (n : Nat) (h : step s = .next t) : core.run (n + 1) s = core.run n t := by
  have h' : core.step s = .next t := h
  simp only [Host.Core.run, h']

/-- Everything one event can be (R59). -/
theorem nextEvent_cases (s : State) :
    (s.inflight = none ∧ s.host = [] ∧ nextEvent s = .next s) ∨
    (∃ op rest, s.inflight = none ∧ s.host = op :: rest ∧ nextEvent s = hostEvent { s with host := rest } op) ∨
    (∃ op rest later, s.inflight ≠ none ∧ s.host = op :: rest ∧ s.turns = true :: later ∧
      nextEvent s = hostEvent { s with host := rest, turns := later } op) ∨
    (∃ i, s.inflight = some i ∧ (s.host = [] ∨ s.turns.headD false = false) ∧
      nextEvent s = exec i { s with turns := s.turns.tail }) := by
  cases hi : s.inflight with
  | none =>
    cases hh : s.host with
    | nil => exact .inl ⟨rfl, rfl, by simp [nextEvent, hi, hh]⟩
    | cons op rest => exact .inr (.inl ⟨op, rest, rfl, rfl, by simp [nextEvent, hi, hh]⟩)
  | some i =>
    cases hh : s.host with
    | nil => exact .inr (.inr (.inr ⟨i, rfl, .inl rfl, by simp [nextEvent, hi, hh, completionEvent]⟩))
    | cons op rest =>
      cases ht : s.turns with
      | nil => exact .inr (.inr (.inr ⟨i, rfl, .inr rfl, by simp [nextEvent, hi, hh, ht, completionEvent]⟩))
      | cons b later =>
        cases b with
        | false => exact .inr (.inr (.inr ⟨i, rfl, .inr rfl, by simp [nextEvent, hi, hh, ht, completionEvent]⟩))
        | true => exact .inr (.inr (.inl ⟨op, rest, later, by simp, rfl, rfl, by simp [nextEvent, hi, hh, ht]⟩))

end Sys2Proof.Machine
end

