-- ==== Sys2Proof/Laws/PerInstr.lean ====
section
/-! SUPPORT. A fact of each command as syntax: its word is a legal command word with RSVD 0, and decodes to it (R80, R81). -/

namespace Sys2Proof.Laws.CommandWord

/-- The word of `i` is well-formed, its OPCODE field is the opcode map's, and it decodes to `i`. -/
def Statement (i : Instr) : Prop :=
  i.wf = true ∧ CommandWord.wf (encode i) = true ∧ opcodeField (encode i) = opcodeOf i ∧ reservedField (encode i) = 0
    ∧ decode (encode i) = .command i

theorem modpow : Statement .modpow := by unfold Statement; decide

theorem precomputeRoots : Statement .precomputeRoots := by unfold Statement; decide

theorem nttTransform : Statement .nttTransform := by unfold Statement; decide

end Sys2Proof.Laws.CommandWord
end

