-- ==== Sys2Proof/Tests/Slice0.lean ====
section
/-! SUPPORT. The model's own tests. Expected results come from spec/95_test_vectors.md (the row is named) or from the
encoding tables; a `test_witness_` theorem shows states that meet the hypotheses of the obligation it is named after. -/

namespace Sys2Proof.Tests

open Sys2Proof Sys2Proof.Machine

/-! ## Helpers -/

/-- The reset state with its operand registers written. -/
def loaded (mod gen len base exp : Nat) : State :=
  { State.reset with mod := mod, gen := gen, len := len, base := base, exp := exp }

/-- `s` with command `i` in flight. -/
def busyWith (i : Instr) (s : State) : State := { s with inflight := some i }

/-- `s` with SEQ written from entry 0 on. -/
def withSeq (vs : List Nat) (s : State) : State := seqWriteAll s 0 vs

/-- `s` with the host's next operation `op`, allowed to move while a command is in flight. -/
def withHost (op : HostOp) (s : State) : State := { s with host := [op], turns := [true] }

/-- What `f` reads in the next state, if there is one. -/
def after {α : Type} (o : Host.Outcome State Fault Refusal) (f : State → α) : Option α :=
  match o with
  | .next t => some (f t)
  | .fault _ => none
  | .refused _ => none

/-- MODPOW of the source's example (S1) in flight. -/
def s1Busy : State := busyWith .modpow (loaded 17 0 0 3 5)

/-- PRECOMPUTE_ROOTS of row Q1 in flight. -/
def q1Busy : State := busyWith .precomputeRoots (loaded 17 13 4 0 0)

/-- NTT_TRANSFORM of row N1 in flight, with the entries above it of row N20. -/
def n1Busy : State := busyWith .nttTransform (withSeq [2, 5, 3, 7, 9, 9, 9, 9] (loaded 17 13 4 0 0))

/-! ## Well-formedness -/

theorem test_params_wf : Params.standard.wf = true ∧ (Params.mk 32 1).wf = true ∧ (Params.mk 65535 12).wf = true := by
  decide

theorem test_params_ill_width_small : (Params.mk 31 10).wf = false := by decide

theorem test_params_ill_width_large : (Params.mk 65536 10).wf = false := by decide

theorem test_params_ill_capacity_zero : (Params.mk 64 0).wf = false := by decide

theorem test_params_ill_capacity_large : (Params.mk 64 13).wf = false := by decide

theorem test_command_word_wf :
    CommandWord.wf 0x01 = true ∧ CommandWord.wf 0x02 = true ∧ CommandWord.wf 0x03 = true := by decide

theorem test_command_word_ill_opcode :
    CommandWord.wf 0x00 = false ∧ CommandWord.wf 0x04 = false ∧ CommandWord.wf 0xFF = false := by decide

theorem test_command_word_ill_reserved : CommandWord.wf 0x101 = false := by decide

theorem test_stmt_ill_value :
    stmtWf .standard (.wr .mod (2 ^ 64)) = false ∧ stmtWf .standard (.cmdRaw (2 ^ 64)) = false
      ∧ stmtWf .standard (.wrSeq 0 (2 ^ 64)) = false ∧ stmtWf .standard (.loadSeq [2 ^ 64]) = false := by decide

theorem test_stmt_ill_index :
    stmtWf .standard (.wrSeq 1024 0) = false ∧ stmtWf .standard (.rdSeq 1024) = false
      ∧ stmtWf .standard (.rdRoot 10) = false := by decide

theorem test_stmt_ill_load_too_long : stmtWf ⟨32, 1⟩ (.loadSeq [1, 2, 3]) = false := by decide

theorem test_stmt_wf :
    stmtWf .standard (.wrSeq 1023 (2 ^ 64 - 1)) = true ∧ stmtWf .standard (.rdRoot 9) = true
      ∧ stmtWf ⟨32, 1⟩ (.loadSeq [1, 2]) = true := by decide

/-! ## Decoding: words written out from R80's fields (RSVD, then OPCODE) -/

/-- RSVD 0, OPCODE 0000_0001. -/
theorem test_decode_modpow : decode 0b00000001 = .command .modpow := by decide

/-- RSVD 0, OPCODE 0000_0010. -/
theorem test_decode_precompute_roots : decode 0b00000010 = .command .precomputeRoots := by decide

/-- RSVD 0, OPCODE 0000_0011. -/
theorem test_decode_ntt_transform : decode 0b00000011 = .command .nttTransform := by decide

/-- V16 to V20, V21: OPCODE 0x00, 0x04, 0x05, 0xFF, RSVD bit 8, RSVD bit 63. -/
theorem test_decode_illegal :
    decode 0x00 = .illegalCommand ∧ decode 0x04 = .illegalCommand ∧ decode 0x05 = .illegalCommand
      ∧ decode 0xFF = .illegalCommand ∧ decode 0x101 = .illegalCommand
      ∧ decode 0x8000000000000003 = .illegalCommand := by decide

/-! ## The commands -/

/-- S1, M1: 3^5 mod 17 = 5, STATUS 0x02. -/
theorem test_modpow_source_example :
    after (exec .modpow s1Busy) (fun t => (t.result, statusWord t)) = some (5, 0x02) := by decide

/-- M15: (2^64-2)^(2^64-1) mod (2^64-1) = 2^64-2. -/
theorem test_modpow_full_width :
    after (exec .modpow (busyWith .modpow (loaded (2 ^ 64 - 1) 0 0 (2 ^ 64 - 2) (2 ^ 64 - 1)))) State.result
      = some 18446744073709551614 := by decide +kernel

/-- Q12: the entries at NBITS and above are cleared. -/
theorem test_precompute_clears_old_entries :
    after (exec .precomputeRoots { q1Busy with root := List.replicate 10 7 }) (fun t => (t.nbits, t.baseRoot, t.root))
      = some (2, 4, [4, 16, 0, 0, 0, 0, 0, 0, 0, 0]) := by decide

/-- Q3: a primitive root whose table is computed all the same. -/
theorem test_precompute_unsuitable_generator :
    after (exec .precomputeRoots (busyWith .precomputeRoots (loaded 17 3 8 0 0)))
      (fun t => (t.nbits, t.baseRoot, t.root.take 4)) = some (3, 11, [11, 2, 4, 0]) := by decide

/-- N1, N20: the golden vector, and the entries at and above `n` as before. -/
theorem test_ntt_golden_vector :
    after (exec .nttTransform n1Busy) (fun t => (t.seq.map Prod.snd, t.root.take 3, statusWord t))
      = some ([0, 15, 14, 13, 9, 9, 9, 9], [4, 16, 0], 0x02) := by decide

/-- N3: three stages with an unsuitable generator. -/
theorem test_ntt_three_stages :
    after (exec .nttTransform (busyWith .nttTransform (withSeq [1, 2, 3, 4, 5, 6, 7, 8] (loaded 17 3 8 0 0))))
      (fun t => t.seq.map Prod.snd) = some [2, 15, 5, 6, 1, 13, 4, 13] := by decide

/-! ## Validation and STATUS -/

/-- V3, V5, V10, V12, V14, V15, V19, V21: STATUS after the CMD write. -/
theorem test_rejections :
    after (commandWrite 0x01 (loaded 1 0 0 0 0)) statusWord = some 0x24
      ∧ after (commandWrite 0x02 (loaded 17 0 0 0 0)) statusWord = some 0x14
      ∧ after (commandWrite 0x03 (loaded 1 0 1 0 0)) statusWord = some 0x24
      ∧ after (commandWrite 0x03 (loaded 17 0 2048 0 0)) statusWord = some 0x54
      ∧ after (commandWrite 0x03 (loaded 0 0 3 0 0)) statusWord = some 0x14
      ∧ after (commandWrite 0x03 (loaded 0 0 2048 0 0)) statusWord = some 0x54
      ∧ after (commandWrite 0x101 (loaded 17 0 4 0 0)) statusWord = some 0x44
      ∧ after (commandWrite 0x05 (loaded 0 0 0 0 0)) statusWord = some 0x44 := by decide

/-- V2, V9, V11: STATUS 0x01. -/
theorem test_acceptances :
    after (commandWrite 0x01 (loaded 2 0 3 0 0)) statusWord = some 0x01
      ∧ after (commandWrite 0x03 (loaded 17 0 1 0 0)) statusWord = some 0x01
      ∧ after (commandWrite 0x03 (loaded 17 0 1024 0 0)) statusWord = some 0x01 := by decide

/-- V22: ACCV is kept by a rejection. -/
theorem test_rejection_keeps_accv :
    after (commandWrite 0x03 { loaded 17 0 3 0 0 with status := ⟨false, false, true, .none⟩ }) statusWord
      = some 0x1C := by decide

/-! ## The register interface -/

/-- H1, H2: CFG. -/
theorem test_cfg_word : cfgWord .standard = 0x0100400A ∧ cfgWord ⟨32, 12⟩ = 0x0100200C := by decide

/-- H12: `WR SEQ[3], 7` then `RD SEQ[3]`. -/
theorem test_seq_write_read :
    after (hostWrite 0x1003#13 7 State.reset) (fun t => (hostRead 0x1003#13 t).rdata) = some 7 := by decide

/-- H6, H14: every word is stored as written. -/
theorem test_write_unchecked :
    after (hostWrite 0x003#13 (2 ^ 64 - 1) State.reset) State.mod = some (2 ^ 64 - 1)
      ∧ after (hostWrite 0x1000#13 100 (loaded 17 0 0 0 0)) (fun t => seqRead t 0) = some 100 := by decide

/-- H11: SEQ index N_MAX is reserved. -/
theorem test_seq_beyond_capacity :
    hostWrite 0x1400#13 5 State.reset = .next State.reset ∧ (hostRead 0x1400#13 State.reset).rdata = 0 :=
  ⟨rfl, by decide⟩

/-- H15, H16: bit 3 of a STATUS write clears ACCV, the other bits nothing. -/
theorem test_status_write :
    after (hostWrite 0x002#13 0x08 { State.reset with status := ⟨true, false, true, .none⟩ }) statusWord = some 0x02
      ∧ after (hostWrite 0x002#13 0xF7 { State.reset with status := ⟨true, false, true, .none⟩ }) statusWord
        = some 0x0A := by decide

/-- Z1, Z4, Z5: while busy, a write of EXP and a command word are dropped with ACCV, one of RESULT is ignored without. -/
theorem test_writes_while_busy :
    after (hostWrite 0x007#13 6 s1Busy) (fun t => (t.exp, statusWord t)) = some (5, 0x09)
      ∧ after (hostWrite 0x001#13 0xFF s1Busy) statusWord = some 0x09
      ∧ after (hostWrite 0x008#13 7 s1Busy) statusWord = some 0x01 := by decide

/-- Z7: while busy a read of RESULT is the next draw. -/
theorem test_read_output_while_busy :
    (hostRead 0x008#13 s1Busy).rdata = Config.busyReadDraw 0 % 2 ^ 64 := rfl

/-- Z8: while busy a read of EXP is exact. -/
theorem test_read_operand_while_busy : (hostRead 0x007#13 s1Busy).rdata = 5 := by decide

/-- H13, X6: an entry not written since reset reads the same each time. -/
theorem test_unwritten_entry_is_stable :
    (hostRead 0x1000#13 (hostRead 0x1000#13 State.reset)).rdata = (hostRead 0x1000#13 State.reset).rdata := rfl

/-- 30_encoding.md section 5 and R85: transactions of host statements. -/
theorem test_host_notation :
    stmtOps (.wr .mod 17) = [.write 0x003#13 0x11] ∧ stmtOps (.wrSeq 3 7) = [.write 0x1003#13 0x7]
      ∧ stmtOps (.rdRoot 1) = [.read 0x041#13] ∧ stmtOps (.run .nttTransform) = [.write 0x001#13 0x3, .wait]
      ∧ stmtOps (.loadSeq [2, 5]) = [.write 0x1000#13 2, .write 0x1001#13 5]
      ∧ stmtOps .clrAccv = [.write 0x002#13 0x8] := by decide

/-- H10: `RD ROOT[10]` at LOGN_MAX = 10, which `stmtWf` does not admit (log 19), has its transaction and reads 0. -/
theorem test_root_beyond_capacity :
    stmtOps (.rdRoot 10) = [.read 0x04A#13] ∧ (hostRead 0x04A#13 State.reset).rdata = 0 := by decide

/-- X3, X4: the first step after reset with a command placed. -/
theorem test_placed_command_after_reset :
    after (step (State.reset.withFetchWord 64 0x1)) statusWord = some 0x24
      ∧ after (step (State.reset.withFetchWord 64 0x3)) statusWord = some 0x14 := by decide

/-! ## Witnesses: states and operands that meet the hypotheses of the obligations -/

theorem test_witness_CommandSelectedByWholeWord :
    decode 0x01 = .command .modpow ∧ (0x100 : Nat) ≠ 0x01 ∧ (0x100 : Nat) ≠ 0x02 ∧ (0x100 : Nat) ≠ 0x03
      ∧ State.reset.inflight = none := by decide

theorem test_witness_DecodeEncodeAgree : decode 0x03 = .command .nttTransform := by decide

/-- Each of the three grounds for an illegal word, at the edge of its range. -/
theorem test_witness_IllegalWordRejected :
    State.reset.inflight = none ∧ (0x00 : Nat) % 256 = 0 ∧ 4 ≤ (0x04 : Nat) % 256 ∧ (0x101 : Nat) / 256 ≠ 0 := by
  decide

theorem test_witness_StepRunsPresentedCommand :
    (let s := withHost (.write cmdAddr 0x02) State.reset
     s.inflight = none ∧ s.host = [.write cmdAddr 0x02] ∧ decode (0x02 % s.cfg.bound) = .command .precomputeRoots)
      ∧ State.reset.cfg.wf = true := by decide

/-- The host has nothing to do; the host has something to do and it is not its turn. -/
theorem test_witness_StepCompletesCommandInFlight :
    (s1Busy.inflight = some .modpow ∧ s1Busy.host = [])
      ∧ (let s := { s1Busy with host := [.wait], turns := [false, true] }
         s.inflight = some .modpow ∧ s.turns.headD false = false) := by decide

theorem test_witness_StepTakesHostOperations :
    (State.reset.inflight = none ∧ State.reset.host = [])
      ∧ (let s := withHost .wait State.reset
         s.inflight = none ∧ s.host = .wait :: [])
      ∧ (let s := withHost .wait s1Busy
         s.inflight = some .modpow ∧ s.host = .wait :: [] ∧ s.turns = true :: []) := by decide

theorem test_witness_CommandWriteFollowsProtocol :
    s1Busy.inflight ≠ none
      ∧ (State.reset.inflight = none ∧ validate State.reset 0x01 ≠ .none)
      ∧ ((loaded 2 0 0 0 0).inflight = none ∧ validate (loaded 2 0 0 0 0) 0x01 = .none) := by decide

/-- Each answer of Validate at the edge of its range: V16, V17; V5, V6; V12; V3, V10; V2, V9, V11. -/
theorem test_witness_ValidateChecksInOrder :
    (validate (loaded 17 0 4 0 0) 0x00 = .illegalCommand ∧ validate (loaded 17 0 4 0 0) 0x04 = .illegalCommand)
      ∧ (validate (loaded 17 0 0 0 0) 0x02 = .invalidLength ∧ validate (loaded 17 0 3 0 0) 0x03 = .invalidLength)
      ∧ validate (loaded 17 0 2048 0 0) 0x03 = .capacityExceeded
      ∧ (validate (loaded 1 0 3 0 0) 0x01 = .invalidModulus ∧ validate (loaded 1 0 1 0 0) 0x03 = .invalidModulus)
      ∧ (validate (loaded 2 0 3 0 0) 0x01 = .none ∧ validate (loaded 17 0 1 0 0) 0x03 = .none
        ∧ validate (loaded 17 0 1024 0 0) 0x03 = .none) := by decide

/-- The largest legal length; a host read between acceptance and completion. -/
theorem test_witness_AcceptanceFixesOperands :
    ((loaded 2 0 1024 0 0).inflight = none ∧ operandsOk .nttTransform (loaded 2 0 1024 0 0))
      ∧ (let s := withHost (.write 0x007#13 6) s1Busy
         s.inflight ≠ none ∧ ∃ t, step s = .next t ∧ t.inflight ≠ none) :=
  ⟨⟨rfl, by decide, 10, by decide, by decide⟩, by decide, _, rfl, by decide⟩

theorem test_witness_RejectedAgainTheSame :
    State.reset.inflight = none ∧ ∃ t, commandWrite 0x01 State.reset = .next t ∧ t.inflight = none :=
  ⟨rfl, _, rfl, rfl⟩

theorem test_witness_ModpowCommand :
    (loaded 1 0 0 0 0).inflight = none ∧ (loaded 1 0 0 0 0).mod < 2
      ∧ (loaded 2 0 0 0 0).inflight = none ∧ 2 ≤ (loaded 2 0 0 0 0).mod
      ∧ s1Busy.inflight = some .modpow ∧ 2 ≤ s1Busy.mod := by decide

/-- `3` is no power of two. -/
theorem three_ne_two_pow (k : Nat) : 3 ≠ 2 ^ k := by
  match k with
  | 0 => decide
  | k + 1 => rw [pow_succ]; omega

/-- LEN 3; LEN 2048 with MOD 17; LEN 1024 with MOD 1; LEN 1024 with MOD 2; in flight with LEN 1. -/
theorem test_witness_PrecomputeRootsCommand :
    ((loaded 17 0 3 0 0).inflight = none ∧ ¬∃ k, (loaded 17 0 3 0 0).len = 2 ^ k)
      ∧ ((loaded 17 0 2048 0 0).len = 2 ^ 11 ∧ (loaded 17 0 2048 0 0).cfg.logNMax < 11)
      ∧ ((loaded 1 0 1024 0 0).len = 2 ^ 10 ∧ 10 ≤ (loaded 1 0 1024 0 0).cfg.logNMax
        ∧ (loaded 1 0 1024 0 0).mod < 2)
      ∧ (2 ≤ (loaded 2 0 1024 0 0).mod)
      ∧ (let s := busyWith .precomputeRoots (loaded 17 13 1 0 0)
         s.inflight = some .precomputeRoots ∧ s.len = 2 ^ 0 ∧ 0 ≤ s.cfg.logNMax ∧ 2 ≤ s.mod) :=
  ⟨⟨rfl, fun ⟨k, h⟩ => three_ne_two_pow k h⟩, by decide, by decide, by decide, by decide⟩

/-- The idle clauses share the witnesses above; in flight with LEN 4, and with the smallest length and modulus. -/
theorem test_witness_NttTransformCommand :
    (¬∃ k, (loaded 17 0 3 0 0).len = 2 ^ k)
      ∧ (n1Busy.inflight = some .nttTransform ∧ n1Busy.len = 2 ^ 2 ∧ 2 ≤ n1Busy.cfg.logNMax ∧ 2 ≤ n1Busy.mod)
      ∧ (let s := busyWith .nttTransform (loaded 2 0 1 0 0)
         s.inflight = some .nttTransform ∧ s.len = 2 ^ 0 ∧ 2 ≤ s.mod) :=
  ⟨fun ⟨k, h⟩ => three_ne_two_pow k h, by decide, by decide⟩

theorem test_witness_CommandDroppedWhileOtherInFlight :
    s1Busy.inflight = some .modpow ∧ Instr.modpow ≠ Instr.nttTransform := by decide

theorem test_witness_CompletionFaultsOnlyUnvalidated :
    (busyWith .modpow (loaded 1 0 0 0 0)).inflight = some .modpow
      ∧ ¬operandsOk .modpow (busyWith .modpow (loaded 1 0 0 0 0))
      ∧ ∃ f, exec .modpow (busyWith .modpow (loaded 1 0 0 0 0)) = .fault f :=
  ⟨rfl, by unfold operandsOk; decide, _, rfl⟩

/-- Completing, accepted and dropped. -/
theorem test_witness_RegisterCommandsFrame :
    (∃ t, exec .modpow s1Busy = .next t) ∧ (∃ t, exec .precomputeRoots q1Busy = .next t)
      ∧ (∃ t, exec .modpow (loaded 2 0 0 0 0) = .next t ∧ (loaded 2 0 0 0 0).inflight ≠ some .modpow)
      ∧ (∃ t, exec .precomputeRoots s1Busy = .next t ∧ s1Busy.inflight ≠ some .precomputeRoots) :=
  ⟨⟨_, rfl⟩, ⟨_, rfl⟩, ⟨_, rfl, by decide⟩, ⟨_, rfl, by decide⟩⟩

theorem test_witness_TransformFrame :
    (∃ t, exec .nttTransform n1Busy = .next t) ∧ n1Busy.len ≤ 4
      ∧ (∃ t, exec .nttTransform (loaded 17 13 4 0 0) = .next t
        ∧ (loaded 17 13 4 0 0).inflight ≠ some .nttTransform) :=
  ⟨⟨_, rfl⟩, by decide, _, rfl, by decide⟩

theorem test_witness_CommandStatusFrame :
    (∃ t, exec .modpow s1Busy = .next t ∧ s1Busy.inflight = some .modpow)
      ∧ (∃ t, exec .modpow State.reset = .next t ∧ State.reset.inflight = none)
      ∧ (∃ t, exec .nttTransform s1Busy = .next t ∧ s1Busy.inflight = some .modpow
        ∧ Instr.modpow ≠ Instr.nttTransform) :=
  ⟨⟨_, rfl, rfl⟩, ⟨_, rfl, rfl⟩, _, rfl, rfl, by decide⟩

/-- R6's examples; and a remainder of the smallest modulus. -/
theorem test_witness_ReduceIsFlooredRemainder :
    reduce (-3) 17 = 14 ∧ reduce (-38) 17 = 13 ∧ reduce 17 17 = 0
      ∧ (1 ≤ 17 ∧ 14 < 17 ∧ (((17 : Nat) : Int) ∣ (-3) - ((14 : Nat) : Int))) ∧ (1 ≤ 1 ∧ 0 < 1) := by decide

/-- The smallest modulus, for the statements whose one hypothesis is `2 ≤ q`. -/
theorem test_witness_ModpowIsPowerModulo : 2 ≤ 2 ∧ modpow 5 3 2 = 1 := by decide

theorem test_witness_ModpowIdentityLaw : 2 ≤ 17 ∧ modpow 0 0 17 = 1 := by decide

theorem test_witness_ModpowResultReduced : 2 ≤ 17 ∧ modpow 20 3 17 = 10 := by decide

theorem test_witness_RootTableValues : 2 ≤ 17 ∧ rootTable 2 (2 ^ 3) 17 = ⟨3, 9, [9, 13, 16]⟩ := by decide

theorem test_witness_RootTableBySquaring :
    2 ≤ 17 ∧ 0 < 1 ∧ (1 + 1 < 3 ∧ (rootTable 2 (2 ^ 3) 17).table[1]? = some 13) := by decide

/-- R162's example. -/
theorem test_witness_ButterflyIsExact : 2 ≤ 17 ∧ butterfly 14 13 4 17 = (15, 13) := by decide

theorem test_witness_StagesUseRootsDownwards : [4, 16].length = 2 := rfl

theorem test_witness_TwiddlesAndFirstStage : 2 ≤ 17 ∧ stage 4 17 16 1 [2, 5, 3, 7] = [7, 14, 10, 13] := by decide

/-- Every stage's butterflies in the opposite order. -/
theorem test_witness_ButterflyOrderIrrelevant :
    ∀ s < 3, ((stagePairs (2 ^ 3) (2 ^ s)).reverse).Perm (stagePairs (2 ^ 3) (2 ^ s)) :=
  fun _ _ => List.reverse_perm _

/-- The shortest transform with a butterfly. -/
theorem test_witness_TransformOutputReduced :
    let s := busyWith .nttTransform (withSeq [20, 0] (loaded 17 5 2 0 0))
    s.inflight = some .nttTransform ∧ s.len = 2 ^ 1 ∧ 1 ≤ 1 ∧ 1 ≤ s.cfg.logNMax ∧ 2 ≤ s.mod := by decide

/-- N6, V10. -/
theorem test_witness_LengthOneTransformIsIdentity :
    (let s := busyWith .nttTransform (withSeq [42] (loaded 17 13 1 0 0))
     s.inflight = some .nttTransform ∧ s.len = 1 ∧ 2 ≤ s.mod)
      ∧ ((loaded 1 0 1 0 0).inflight = none ∧ (loaded 1 0 1 0 0).len = 1 ∧ (loaded 1 0 1 0 0).mod < 2) := by decide

/-- The same operands in states that differ elsewhere. -/
theorem test_witness_OutputsDependOnOperandsAlone :
    (let s := s1Busy
     let s' := { s1Busy with gen := 9, result := 3 }
     s'.inflight = some .modpow ∧ s.mod = s'.mod ∧ s.base = s'.base ∧ s.exp = s'.exp
       ∧ (∃ t, exec .modpow s = .next t) ∧ ∃ t, exec .modpow s' = .next t)
      ∧ (let s := q1Busy
         let s' := { q1Busy with base := 9, root := List.replicate 10 7 }
         s'.inflight = some .precomputeRoots ∧ s.cfg = s'.cfg ∧ s.mod = s'.mod ∧ s.gen = s'.gen ∧ s.len = s'.len
           ∧ (∃ t, exec .precomputeRoots s = .next t) ∧ ∃ t, exec .precomputeRoots s' = .next t)
      ∧ (let s := n1Busy
         let s' := { seqWrite n1Busy 4 100 with result := 1 }
         s'.inflight = some .nttTransform ∧ s.cfg = s'.cfg ∧ s.mod = s'.mod ∧ s.gen = s'.gen ∧ s.len = s'.len
           ∧ (∀ j < s.len, seqRead s j = seqRead s' j)
           ∧ (∃ t, exec .nttTransform s = .next t) ∧ ∃ t, exec .nttTransform s' = .next t) :=
  ⟨⟨rfl, rfl, rfl, rfl, ⟨_, rfl⟩, _, rfl⟩, ⟨rfl, rfl, rfl, rfl, rfl, ⟨_, rfl⟩, _, rfl⟩,
    rfl, rfl, rfl, rfl, rfl, by decide, ⟨_, rfl⟩, _, rfl⟩

/-- The golden vector's root (4^2 = -1 mod 17), and the shortest length (16^1 = -1 mod 17). -/
theorem test_witness_TransformIsBitReversedDft :
    (n1Busy.inflight = some .nttTransform ∧ n1Busy.len = 2 ^ 2 ∧ 2 ≤ n1Busy.cfg.logNMax ∧ 2 ≤ n1Busy.mod
        ∧ baseRootOf n1Busy.gen n1Busy.len n1Busy.mod ^ (n1Busy.len / 2) % n1Busy.mod = n1Busy.mod - 1)
      ∧ (let s := busyWith .nttTransform (loaded 17 16 2 0 0)
         s.inflight = some .nttTransform ∧ s.len = 2 ^ 1 ∧ 1 ≤ s.cfg.logNMax ∧ 2 ≤ s.mod
           ∧ baseRootOf s.gen s.len s.mod ^ (s.len / 2) % s.mod = s.mod - 1) := by decide

theorem test_witness_CfgFieldsAreConstant : (Params.mk 65535 12).wf = true ∧ ∃ t, step s1Busy = .next t :=
  ⟨by decide, _, rfl⟩

/-- The edges of every range of the map at the default parameters, idle and busy. -/
theorem test_witness_HostReadFollowsMap :
    State.reset.cfg.logNMax ≤ 12 ∧ State.reset.inflight = none ∧ s1Busy.inflight ≠ none
      ∧ ((0x000#13).toNat = 0x000 ∧ (0x007#13).toNat = 0x007 ∧ (0x008#13).toNat = 0x008 ∧ (0x00A#13).toNat = 0x00A)
      ∧ (9 < State.reset.cfg.logNMax ∧ (0x049#13).toNat = 0x040 + 9)
      ∧ (1023 < State.reset.cfg.nMax ∧ (0x13FF#13).toNat = 0x1000 + 1023)
      ∧ (0x00B ≤ (0x00B#13).toNat ∧ (0x03F#13).toNat < 0x040)
      ∧ (0x040 + State.reset.cfg.logNMax ≤ (0x04A#13).toNat ∧ (0xFFF#13).toNat < 0x1000)
      ∧ 0x1000 + State.reset.cfg.nMax ≤ (0x1400#13).toNat := by decide

/-- As for reads, with the largest word. -/
theorem test_witness_HostWriteFollowsMap :
    State.reset.cfg.logNMax ≤ 12 ∧ 2 ^ 64 - 1 < State.reset.cfg.bound ∧ State.reset.inflight = none
      ∧ s1Busy.inflight ≠ none
      ∧ ((0x003#13).toNat = 0x003 ∧ (0x007#13).toNat = 0x007)
      ∧ (1023 < State.reset.cfg.nMax ∧ (0x13FF#13).toNat = 0x1000 + 1023)
      ∧ (0x008 ≤ (0x008#13).toNat ∧ (0xFFF#13).toNat < 0x1000)
      ∧ 0x1000 + State.reset.cfg.nMax ≤ (0x1400#13).toNat := by decide

theorem test_witness_ReadOnlyWritesIgnored :
    s1Busy.cfg.logNMax ≤ 12 ∧ 0x040 ≤ (0x049#13).toNat ∧ (0x049#13).toNat < 0x040 + s1Busy.cfg.logNMax := by decide

theorem test_witness_ReservedReadsZeroIgnoresWrites :
    s1Busy.cfg.logNMax ≤ 12 ∧ 0x00B ≤ (0x03F#13).toNat ∧ (0x03F#13).toNat < 0x040
      ∧ 0x040 + s1Busy.cfg.logNMax ≤ (0x04A#13).toNat ∧ 0x1000 + s1Busy.cfg.nMax ≤ (0x1FFF#13).toNat := by decide

theorem test_witness_OperandWriteDroppedWhileBusy :
    s1Busy.inflight ≠ none ∧ s1Busy.cfg.logNMax ≤ 12 ∧ (0x003 ≤ (0x007#13).toNat ∧ (0x007#13).toNat ≤ 0x007)
      ∧ (0x1000 ≤ (0x13FF#13).toNat ∧ (0x13FF#13).toNat < 0x1000 + s1Busy.cfg.nMax) := by decide

theorem test_witness_CommandWriteDroppedWhileBusy : q1Busy.inflight ≠ none := by decide

/-- The same entry and another one, the last of the buffer. -/
theorem test_witness_SequenceReadAfterWrite :
    State.reset.cfg.logNMax ≤ 12 ∧ State.reset.inflight = none ∧ 1023 < State.reset.cfg.nMax ∧ 0 < State.reset.cfg.nMax
      ∧ 7 < State.reset.cfg.bound ∧ ∃ t, hostWrite (seqAddr 1023) 7 State.reset = .next t :=
  ⟨by decide, rfl, by decide, by decide, by decide, _, rfl⟩

theorem test_witness_NamedAddresses : (Params.mk 32 12).wf = true ∧ 11 < 12 ∧ 4095 < (Params.mk 32 12).nMax := by
  decide

/-- An invariant state other than the reset state: MODPOW in flight. -/
theorem inv_s1Busy_bare : State.Inv s1Busy where
  params := by decide
  regs := by decide
  rootLength := by decide
  rootFits := by decide
  nbitsRange := by decide
  rootAbove := fun i _ => by
    have h : ∀ n, (List.replicate n 0).getD i 0 = 0 := fun n => by
      rw [List.getD_eq_getElem?_getD, List.getElem?_replicate]
      split <;> rfl
    exact h 10
  seqForm := by decide
  seqFits := by decide
  doneOrErr := by decide
  errHasCode := by decide
  errRaised := by decide
  busyClear := by decide
  inFlightValid := fun i h => by
    cases h
    show 2 ≤ 17
    decide

/-- The invariant does not speak of the host's side. -/
theorem inv_s1Busy (host : List HostOp) (turns : List Bool) : State.Inv { s1Busy with host := host, turns := turns } :=
  have h := inv_s1Busy_bare
  ⟨h.params, h.regs, h.rootLength, h.rootFits, h.nbitsRange, h.rootAbove, h.seqForm, h.seqFits, h.doneOrErr,
    h.errHasCode, h.errRaised, h.busyClear, fun i hi => by cases i <;> exact h.inFlightValid _ hi⟩

theorem test_witness_StepKeepsInvariant : State.Inv s1Busy ∧ ∃ t, step s1Busy = .next t :=
  ⟨inv_s1Busy [] [], _, rfl⟩

theorem test_witness_NoEventFails : State.Inv (withHost (.write 0x001#13 1) s1Busy) := inv_s1Busy _ _

/-- A dropped write and a read come before the completion. -/
theorem test_witness_AcceptedCommandCompletes :
    let s := { s1Busy with host := [.write 0x007#13 6, .read 0x008#13], turns := [true, true] }
    s.Inv ∧ s.inflight ≠ none ∧ ∀ op ∈ s.host, op ≠ .reset :=
  ⟨inv_s1Busy _ _, by decide, by decide⟩

theorem test_witness_WaitEnds :
    let s := { s1Busy with host := [.wait, .read 0x008#13], turns := [true, true] }
    s.Inv ∧ s.host = .wait :: [.read 0x008#13] :=
  ⟨inv_s1Busy _ _, rfl⟩

theorem test_witness_ResultsWrittenOnlyByCompletion :
    (∃ t, step s1Busy = .next t ∧ t.result ≠ s1Busy.result) ∧ (∀ rest, s1Busy.host ≠ .reset :: rest)
      ∧ (∃ t, step q1Busy = .next t ∧ t.baseRoot ≠ q1Busy.baseRoot) ∧ ∀ rest, q1Busy.host ≠ .reset :: rest :=
  ⟨⟨_, rfl, by decide⟩, (fun _ h => by cases h), ⟨_, rfl, by decide⟩, (fun _ h => by cases h)⟩

/-- By a host write to the last entry, and by a transform. -/
theorem test_witness_SequenceChangesOnlyBy :
    (let s := withHost (.write 0x13FF#13 7) (seqWrite State.reset 1023 5)
     ∃ t, step s = .next t ∧ seqRead t 1023 ≠ seqRead s 1023)
      ∧ ∃ t, step n1Busy = .next t ∧ seqRead t 3 ≠ seqRead n1Busy 3 :=
  ⟨⟨_, rfl, by decide⟩, _, rfl, by decide⟩

theorem test_witness_OperandsWrittenOnlyByHost :
    let s := withHost (.write 0x007#13 7) State.reset
    (∃ t, step s = .next t ∧ t.exp ≠ s.exp) ∧ ∀ rest, s.host ≠ .reset :: rest :=
  ⟨⟨_, rfl, by decide⟩, fun _ h => by cases h⟩

theorem test_witness_ErrorRaisedOnlyByCommandWrite :
    let s := withHost (.write 0x001#13 0x101) State.reset
    s.status.err = false ∧ ∃ t, step s = .next t ∧ t.status.err = true :=
  ⟨rfl, _, rfl, by decide⟩

theorem test_witness_DoneSetOnlyByCompletion :
    s1Busy.status.done = false ∧ ∃ t, step s1Busy = .next t ∧ t.status.done = true :=
  ⟨rfl, _, rfl, by decide⟩

/-- Z2, Z3: set by a dropped write of SEQ and of CMD; Z9: cleared by a STATUS write. -/
theorem test_witness_AccvSetAndCleared :
    (let s := withHost (.write 0x1000#13 1) s1Busy
     s.status.accv = false ∧ ∃ t, step s = .next t ∧ t.status.accv = true)
      ∧ (let s := withHost (.write 0x001#13 2) s1Busy
         s.status.accv = false ∧ ∃ t, step s = .next t ∧ t.status.accv = true)
      ∧ (let s := withHost (.write 0x002#13 8) { s1Busy with status := ⟨false, false, true, .none⟩ }
         s.status.accv = true ∧ ∃ t, step s = .next t ∧ t.status.accv = false) :=
  ⟨⟨rfl, _, rfl, by decide⟩, ⟨rfl, _, rfl, by decide⟩, rfl, _, rfl, by decide⟩

theorem test_witness_InFlightSetOnlyByAcceptance :
    (let s := withHost (.write 0x001#13 1) (loaded 17 0 0 3 5)
     s.inflight = none ∧ ∃ t, step s = .next t ∧ t.inflight = some .modpow)
      ∧ s1Busy.inflight = some .modpow ∧ ∃ t, step s1Busy = .next t :=
  ⟨⟨rfl, _, rfl, by decide⟩, rfl, _, rfl⟩

end Sys2Proof.Tests
end

/-! # Scope: words, the arithmetic of R6 and R7, the start, and the invariant every event keeps -/

namespace Sys2Proof

/-! ## The parameters (R2, R3) -/

theorem Params.wf_iff (p : Params) :
    p.wf = true ↔ 32 ≤ p.width ∧ p.width < 2 ^ 16 ∧ 1 ≤ p.logNMax ∧ p.logNMax ≤ 12 := by
  simp only [Params.wf, Bool.and_eq_true, decide_eq_true_eq, and_assoc]

theorem Params.two_pow_32_le_bound {p : Params} (h : p.wf = true) : 2 ^ 32 ≤ p.bound :=
  Nat.pow_le_pow_right (by decide) ((Params.wf_iff p).mp h).1

theorem Params.bound_pos (p : Params) : 0 < p.bound := Nat.two_pow_pos _

theorem Params.two_pow_le_nMax (p : Params) (k : Nat) : 2 ^ k ≤ p.nMax ↔ k ≤ p.logNMax :=
  Nat.pow_le_pow_iff_right (by decide)

end Sys2Proof

namespace Sys2Proof.Machine

/-! ## Arithmetic (R6, R7, R122) -/

/-- The uniqueness half of R6. -/
theorem eq_reduce_of_dvd_sub {x : Int} {q r : Nat} (hr : r < q) (hdvd : (q : Int) ∣ x - r) : r = reduce x q := by
  have hmod : (r : Int) % q = x % q := Int.modEq_iff_dvd.mpr hdvd
  have hself : (r : Int) % q = r := Int.emod_eq_of_lt (by omega) (by omega)
  have hred := natCast_reduce (by omega : 0 < q) x
  omega

theorem dvd_sub_reduce {q : Nat} (hq : 0 < q) (x : Int) : (q : Int) ∣ x - reduce x q := by
  rw [natCast_reduce hq]
  exact Int.dvd_self_sub_emod

@[simp] theorem log2_two_pow (k : Nat) : log2 (2 ^ k) = k := Nat.log2_two_pow

theorem isPow2_iff (n : Nat) : isPow2 n = true ↔ ∃ k, n = 2 ^ k := by
  simp only [isPow2, beq_iff_eq]
  constructor
  · intro h
    exact ⟨log2 n, h.symm⟩
  · rintro ⟨k, rfl⟩
    rw [log2_two_pow]

/-- The fuel of the loop covers the exponent, so `modpow` is the power's remainder (R122). -/
theorem modpow_eq_pow_mod {q : Nat} (hq : 0 < q) (b e : Nat) : modpow b e q = b ^ e % q := by
  have hfuel : e < 2 ^ (log2 e + 1) := Nat.lt_log2_self
  rw [modpow, modpowLoop_spec q _ _ _ _ hfuel (reduce_lt hq _), reduce_natCast, reduce_natCast, Nat.mul_mod,
    Nat.mod_mod, ← Nat.mul_mod, one_mul, ← Nat.pow_mod]

theorem modpow_lt {q : Nat} (hq : 0 < q) (b e : Nat) : modpow b e q < q := by
  rw [modpow_eq_pow_mod hq]
  exact Nat.mod_lt _ hq

/-- Settles O20: existence by the range and divisibility of the Euclidean remainder, uniqueness by congruence. -/
theorem reduceIsFlooredRemainder : Obligations.ReduceIsFlooredRemainder := by
  intro x q hq
  exact ⟨⟨reduce_lt hq x, dvd_sub_reduce hq x⟩, fun r hr hdvd => eq_reduce_of_dvd_sub hr hdvd⟩

/-- Settles O21: `isPow2` compares `n` with `2 ^ log2 n`, and `log2` inverts the power. -/
theorem powerOfTwoCheck : Obligations.PowerOfTwoCheck := ⟨isPow2_iff, log2_two_pow⟩

/-! ## The start -/

/-- No entry of SEQ is written at the start, so each reads as its draw of reset 0 (R230; log 6). -/
theorem seqRead_reset (k : Nat) : seqRead State.reset k = Config.seqDraw 0 k % 2 ^ 64 := rfl

/-- Settles O46: every register by evaluation, SEQ by `seqRead_reset`. -/
theorem startIsTheResetState : Obligations.StartIsTheResetState :=
  ⟨rfl, rfl, rfl, rfl, rfl, rfl, rfl, rfl, rfl, rfl, rfl, rfl, rfl, seqRead_reset⟩

/-! ## Validate (R106) -/

theorem validateLength_eq_none_iff (s : State) :
    validateLength s = .none ↔ ∃ k ≤ s.cfg.logNMax, s.len = 2 ^ k := by
  have hpow := isPow2_iff s.len
  unfold validateLength
  split_ifs with hlen hcap
  · refine iff_of_false (by decide) ?_
    rintro ⟨k, -, hk⟩
    simp [hpow.mpr ⟨k, hk⟩] at hlen
  · refine iff_of_false (by decide) ?_
    rintro ⟨k, hk, hlen⟩
    have := (s.cfg.two_pow_le_nMax k).mpr hk
    omega
  · refine iff_of_true rfl ?_
    obtain ⟨k, hk⟩ := hpow.mp (by simpa using hlen)
    exact ⟨k, (s.cfg.two_pow_le_nMax k).mp (by omega), hk⟩

/-- `Validate` passes a command's word exactly when it passes the command's operands. -/
theorem validate_encode_eq_none_iff (s : State) (i : Instr) : validate s (encode i) = .none ↔ operandsOk i s := by
  have hlen := validateLength_eq_none_iff s
  rw [validate_encode]
  cases i with
  | modpow => simp [operandsOk, Nat.succ_le_iff]
  | precomputeRoots => by_cases hv : validateLength s = .none <;> simp [operandsOk, Nat.succ_le_iff, hv, ← hlen]
  | nttTransform => by_cases hv : validateLength s = .none <;> simp [operandsOk, Nat.succ_le_iff, hv, ← hlen]

/-- Code 3 is "reserved; never raised" (R200). -/
theorem validate_ne_invalidExponent (s : State) (v : Nat) : validate s v ≠ .invalidExponent := by
  have hlen : validateLength s ≠ .invalidExponent := by
    unfold validateLength
    split_ifs <;> decide
  unfold validate
  dsimp only
  split_ifs
  · decide
  · exact hlen
  · decide
  · decide

theorem operandsOk_two_le_mod {i : Instr} {s : State} (h : operandsOk i s) : 2 ≤ s.mod := by
  cases i with
  | modpow => exact h
  | precomputeRoots => exact h.1
  | nttTransform => exact h.1

/-- The check reads CFG, MOD and LEN alone. -/
theorem operandsOk_of_eq {i : Instr} {s t : State} (h : operandsOk i s) (hcfg : t.cfg = s.cfg) (hmod : t.mod = s.mod)
    (hlen : t.len = s.len) : operandsOk i t := by
  cases i <;> simpa only [operandsOk, hcfg, hmod, hlen] using h

/-! ## The words a read can return -/

theorem cfgWord_lt (p : Params) : cfgWord p < 2 ^ 32 := by
  unfold cfgWord
  omega

theorem statusWord_lt (s : State) : statusWord s < 2 ^ 8 := by
  have herr : errNumber s.status.errCode ≤ 5 := by cases s.status.errCode <;> decide
  have hbusy := Bool.toNat_le (busy s)
  have hdone := Bool.toNat_le s.status.done
  have herr1 := Bool.toNat_le s.status.err
  have haccv := Bool.toNat_le s.status.accv
  unfold statusWord
  omega

theorem locate_seq_lt {p : Params} {a : Addr} {k : Nat} (h : locate p a = .seq k) : k < p.nMax := by
  unfold locate at h
  dsimp only at h
  split_ifs at h with hreg hroot hseq
  · unfold registerAt at h
    split at h <;> cases h
  · have hk := Loc.seq.inj h
    omega

/-! ## STATUS in the invariant -/

/-- The part of `State.Inv` that speaks of STATUS (R23, R26, R102, R200), for the command in flight `fl`. -/
structure StatusInv (st : Status) (fl : Option Instr) : Prop where
  doneOrErr : ¬(st.done = true ∧ st.err = true)
  errHasCode : st.err = true ↔ st.errCode ≠ .none
  errRaised : st.errCode ≠ .invalidExponent
  busyClear : fl ≠ none → st.done = false ∧ st.err = false

theorem State.Inv.statusInv {s : State} (h : s.Inv) : StatusInv s.status s.inflight :=
  ⟨h.doneOrErr, h.errHasCode, h.errRaised, h.busyClear⟩

theorem statusInv_accepted (st : Status) (fl : Option Instr) : StatusInv (acceptedStatus st) fl :=
  ⟨by simp, by simp, by simp, by simp⟩

theorem statusInv_rejected (st : Status) {code : ErrCode} (hcode : code ≠ .none) (hraised : code ≠ .invalidExponent) :
    StatusInv (rejectedStatus st code) none :=
  ⟨by simp, by simpa using hcode, hraised, by simp⟩

/-- While busy ERR is 0, so DONE may be set at completion (R102, R104). -/
theorem StatusInv.completed {st : Status} {i : Instr} (h : StatusInv st (some i)) :
    StatusInv (completedStatus st) none :=
  have hclear := h.busyClear (by simp)
  ⟨by simp [hclear.2], h.errHasCode, h.errRaised, by simp⟩

/-- The invariant does not speak of ACCV. -/
theorem StatusInv.dropped {st : Status} {fl : Option Instr} (h : StatusInv st fl) : StatusInv (droppedStatus st) fl :=
  ⟨h.doneOrErr, h.errHasCode, h.errRaised, h.busyClear⟩

theorem StatusInv.written {st : Status} {fl : Option Instr} (h : StatusInv st fl) (v : Nat) :
    StatusInv (writtenStatus st v) fl := by
  unfold writtenStatus
  split
  · exact ⟨h.doneOrErr, h.errHasCode, h.errRaised, h.busyClear⟩
  · exact h

/-! ## What keeps the invariant: one lemma per group of fields -/

namespace State.Inv

theorem regs_lt {s : State} (h : s.Inv) :
    s.mod < s.cfg.bound ∧ s.gen < s.cfg.bound ∧ s.len < s.cfg.bound ∧ s.base < s.cfg.bound ∧ s.exp < s.cfg.bound ∧
      s.result < s.cfg.bound ∧ s.baseRoot < s.cfg.bound ∧ s.nbits < s.cfg.bound ∧ s.rdata < s.cfg.bound := by
  simpa using h.regs

/-- SEQ and ROOT read as words, whether written or not (R2, R40). -/
theorem seqRead_lt {s : State} (h : s.Inv) (k : Nat) : seqRead s k < s.cfg.bound := by
  unfold seqRead
  cases hr : s.seq.read k with
  | none => exact Nat.mod_lt _ s.cfg.bound_pos
  | some w => exact (h.seqFits _ (Mem.read_eq_some_mem hr)).2

theorem rootRead_lt {s : State} (h : s.Inv) (i : Nat) : rootRead s i < s.cfg.bound := by
  rw [rootRead, List.getD_eq_getElem?_getD]
  cases hr : s.root[i]? with
  | none => exact s.cfg.bound_pos
  | some w => exact h.rootFits w (List.mem_of_getElem? hr)

/-- Every address holds a word (R55). -/
theorem peek_lt {s : State} (h : s.Inv) (loc : Loc) : peek s loc < s.cfg.bound := by
  have hbound := Params.two_pow_32_le_bound h.params
  obtain ⟨hmod, hgen, hlen, hbase, hexp, hresult, hbaseRoot, hnbits, -⟩ := h.regs_lt
  cases loc with
  | cfg => exact (cfgWord_lt s.cfg).trans_le hbound
  | status => exact (statusWord_lt s).trans_le (le_trans (by decide) hbound)
  | root i => exact h.rootRead_lt i
  | seq k => exact h.seqRead_lt k
  | cmd | reserved => exact s.cfg.bound_pos
  | mod | gen | len | base | exp | result | baseRoot | nbits => assumption

/-- The host's list and turns are outside the invariant. -/
theorem setHost {s : State} (h : s.Inv) (ops : List HostOp) (turns : List Bool) :
    State.Inv { s with host := ops, turns := turns } :=
  { h with inFlightValid := fun i hi => operandsOk_of_eq (h.inFlightValid i hi) rfl rfl rfl }

/-- STATUS and INFLIGHT change together: a command put in flight must have validated operands. -/
theorem setProtocol {s : State} (h : s.Inv) {st : Status} {fl : Option Instr} (hst : StatusInv st fl)
    (hfl : ∀ i, fl = some i → operandsOk i s) : State.Inv { s with status := st, inflight := fl } :=
  { h with
    doneOrErr := hst.doneOrErr
    errHasCode := hst.errHasCode
    errRaised := hst.errRaised
    busyClear := hst.busyClear
    inFlightValid := fun i hi => operandsOk_of_eq (hfl i hi) rfl rfl rfl }

theorem setRdata {s : State} (h : s.Inv) {w : Nat} (hw : w < s.cfg.bound) (draws : Nat) :
    State.Inv { s with rdata := w, draws := draws } :=
  { h with
    regs := by simp [h.regs_lt, hw]
    inFlightValid := fun i hi => operandsOk_of_eq (h.inFlightValid i hi) rfl rfl rfl }

/-- The operand registers may take any words while no command is in flight (R56, R240). -/
theorem setOperands {s : State} (h : s.Inv) (hidle : s.inflight = none) {m g l b e : Nat}
    (hw : ∀ w ∈ [m, g, l, b, e], w < s.cfg.bound) :
    State.Inv { s with mod := m, gen := g, len := l, base := b, exp := e } :=
  { h with
    regs := by
      simp only [List.forall_mem_cons] at hw
      simp [h.regs_lt, hw]
    inFlightValid := fun i hi => by simp [hidle] at hi }

theorem setResult {s : State} (h : s.Inv) {w : Nat} (hw : w < s.cfg.bound) : State.Inv { s with result := w } :=
  { h with
    regs := by simp [h.regs_lt, hw]
    inFlightValid := fun i hi => operandsOk_of_eq (h.inFlightValid i hi) rfl rfl rfl }

theorem seqWrite {s : State} (h : s.Inv) {k v : Nat} (hk : k < s.cfg.nMax) (hv : v < s.cfg.bound) :
    (seqWrite s k v).Inv :=
  { h with
    seqForm := Mem.write_wf h.seqForm k v
    seqFits := fun c hc => by
      rcases Mem.mem_write hc with rfl | hold
      · exact ⟨hk, hv⟩
      · exact h.seqFits c hold
    inFlightValid := fun i hi => operandsOk_of_eq (h.inFlightValid i hi) rfl rfl rfl }

theorem seqWriteAll {vs : List Nat} : ∀ {s : State} {first : Nat}, s.Inv → first + vs.length ≤ s.cfg.nMax →
    (∀ v ∈ vs, v < s.cfg.bound) → (seqWriteAll s first vs).Inv := by
  induction vs with
  | nil =>
    intro s first h _ _
    exact h
  | cons v vs ih =>
    intro s first h hlen hvs
    rw [List.length_cons] at hlen
    exact ih (h.seqWrite (by omega) (hvs v (List.mem_cons_self ..))) (by rw [seqWrite_cfg]; omega)
      fun w hw => hvs w (List.mem_cons_of_mem _ hw)

end State.Inv

/-! ## The work of a completion keeps the invariant (R104) -/

/-- The ROOT file of R141, entry by entry. -/
theorem rootEntries_getD (p : Params) (t : RootTable) (i : Nat) :
    (rootEntries p t).getD i 0 = if i < p.logNMax ∧ i < t.nbits then t.table.getD i 0 else 0 := by
  by_cases hi : i < p.logNMax <;> simp [rootEntries, List.getD_eq_getElem?_getD, hi]

theorem rootEntries_lt {p : Params} {g n q w : Nat} (hq : 0 < q) (hw : w ∈ rootEntries p (rootTable g n q)) : w < q := by
  obtain ⟨i, -, rfl⟩ := List.mem_map.mp hw
  split
  · rename_i hi
    rw [rootTable_table_getD hi]
    exact modpow_lt hq _ _
  · exact hq

namespace State.Inv

theorem performModpow {s : State} (h : s.Inv) (hmod : 2 ≤ s.mod) : (performModpow s).Inv :=
  h.setResult ((modpow_lt (by omega) _ _).trans h.regs_lt.1)

/-- Every output lies below MOD, and NBITS is the LEN's exponent (R37, R39, R141). -/
theorem performPrecompute {s : State} (h : s.Inv) (hmod : 2 ≤ s.mod) (hlen : ∃ k ≤ s.cfg.logNMax, s.len = 2 ^ k) :
    (performPrecompute s).Inv := by
  have hq : 0 < s.mod := by omega
  have hmodFits := h.regs_lt.1
  have hnbits : log2 s.len ≤ s.cfg.logNMax := by
    obtain ⟨k, hk, hlen⟩ := hlen
    rwa [hlen, log2_two_pow]
  have hnbitsFits : log2 s.len < s.cfg.bound := by
    have hbound := Params.two_pow_32_le_bound h.params
    obtain ⟨-, -, -, hcap⟩ := (Params.wf_iff s.cfg).mp h.params
    omega
  exact
    { h with
      regs := by simp [h.regs_lt, (modpow_lt hq s.gen (s.len - 1)).trans hmodFits, hnbitsFits]
      rootLength := by simp [rootEntries]
      rootFits := fun w hw => (rootEntries_lt hq hw).trans hmodFits
      nbitsRange := hnbits
      rootAbove := fun i hi => by
        rw [performPrecompute_nbits] at hi
        rw [rootRead, performPrecompute_root, rootEntries_getD, rootTable_nbits, if_neg (by omega)]
      inFlightValid := fun i hi => operandsOk_of_eq (h.inFlightValid i hi) rfl rfl rfl }

/-- The transform is the precompute and then a write of `LEN` words, each below the bound that MOD does not exceed. -/
theorem performTransform {s : State} (h : s.Inv) (hmod : 2 ≤ s.mod) (hlen : ∃ k ≤ s.cfg.logNMax, s.len = 2 ^ k) :
    (performTransform s).Inv := by
  have hp := h.performPrecompute hmod hlen
  refine hp.seqWriteAll ?_ (butterflyNetwork_all_lt ?_ hp.regs_lt.1.le ?_ _ _)
  · obtain ⟨k, hk, hlen⟩ := hlen
    simpa [hlen] using (s.cfg.two_pow_le_nMax k).mpr hk
  · rw [performPrecompute_mod]
    omega
  · intro w hw
    obtain ⟨k, -, rfl⟩ := List.mem_map.mp hw
    exact hp.seqRead_lt k

theorem performOf {s : State} {i : Instr} (h : s.Inv) (hi : operandsOk i s) : (performOf i s).Inv := by
  cases i with
  | modpow => exact h.performModpow hi
  | precomputeRoots => exact h.performPrecompute hi.1 hi.2
  | nttTransform => exact h.performTransform hi.1 hi.2

end State.Inv

@[simp] theorem performOf_inflight (i : Instr) (s : State) : (performOf i s).inflight = s.inflight := by
  cases i with
  | modpow | precomputeRoots => rfl
  | nttTransform =>
    show (performTransform s).inflight = s.inflight
    rw [performTransform_eq]
    rfl

/-! ## Every event keeps the invariant (R59) -/

namespace State.Inv

theorem dropWrite {s : State} (h : s.Inv) : (dropWrite s).Inv :=
  h.setProtocol h.statusInv.dropped h.inFlightValid

theorem accept {s : State} {i : Instr} (h : s.Inv) (hi : operandsOk i s) : (accept i s).Inv :=
  h.setProtocol (statusInv_accepted _ _) fun _ hj => Option.some.inj hj ▸ hi

theorem reject {s : State} {code : ErrCode} (h : s.Inv) (hidle : s.inflight = none) (hcode : code ≠ .none)
    (hraised : code ≠ .invalidExponent) : (reject code s).Inv :=
  h.setProtocol (hidle ▸ statusInv_rejected s.status hcode hraised) h.inFlightValid

theorem finish {s : State} {i : Instr} (h : s.Inv) (hi : s.inflight = some i) : (finish s).Inv :=
  h.setProtocol (StatusInv.completed (hi ▸ h.statusInv)) fun _ hj => by cases hj

theorem present {s : State} (h : s.Inv) (hidle : s.inflight = none) (i : Instr) : (present i s).Inv := by
  rw [present_eq]
  split_ifs with hv
  · exact h.accept ((validate_encode_eq_none_iff s i).mp hv)
  · exact h.reject hidle hv (validate_ne_invalidExponent s _)

/-- A command is presented, completes, or is dropped (R100). -/
theorem exec {s t : State} {i : Instr} (h : s.Inv) (hexec : exec i s = .next t) : t.Inv := by
  rw [exec_eq] at hexec
  obtain ⟨hidle, rfl⟩ | ⟨hi, hv, rfl⟩ | ⟨j, -, -, rfl⟩ := runCommand_next hexec
  · exact h.present hidle i
  · exact (h.performOf ((validate_encode_eq_none_iff s i).mp hv)).finish (by rw [performOf_inflight, hi])
  · exact h.dropWrite

theorem commandWrite {s t : State} {v : Nat} (h : s.Inv) (hw : commandWrite v s = .next t) : t.Inv := by
  unfold Machine.commandWrite at hw
  split at hw
  · cases hw
    exact h.dropWrite
  · rename_i hbusy
    have hidle : s.inflight = none := by simpa using hbusy
    split at hw
    · exact h.exec hw
    · cases hw
      exact h.reject hidle (by decide) (by decide)

/-- A write that reaches its location: an operand register or SEQ only while idle. -/
theorem poke {s : State} {v : Nat} {loc : Loc} (h : s.Inv) (hv : v < s.cfg.bound)
    (hidle : isOperand loc = true → s.inflight = none) (hseq : ∀ k, loc = .seq k → k < s.cfg.nMax) :
    (poke s v loc).Inv := by
  obtain ⟨hmod, hgen, hlen, hbase, hexp, -⟩ := h.regs_lt
  cases loc with
  | status => exact h.setProtocol (h.statusInv.written v) h.inFlightValid
  | mod | gen | len | base | exp => exact h.setOperands (hidle rfl) (by simp [*])
  | seq k => exact h.seqWrite (hseq k rfl) hv
  | cfg | cmd | result | baseRoot | nbits | root | reserved => exact h

theorem storeWrite {s : State} {v : Nat} {loc : Loc} (h : s.Inv) (hv : v < s.cfg.bound)
    (hseq : ∀ k, loc = .seq k → k < s.cfg.nMax) : (storeWrite s v loc).Inv := by
  unfold Machine.storeWrite
  split
  · exact h.dropWrite
  · rename_i hbusy
    exact h.poke hv (fun hop => by simpa [hop] using hbusy) hseq

theorem hostWrite {s t : State} {a : Addr} {v : Nat} (h : s.Inv) (hw : hostWrite a v s = .next t) : t.Inv := by
  unfold Machine.hostWrite at hw
  split at hw
  · exact h.commandWrite hw
  · cases hw
    exact h.storeWrite (Nat.mod_lt _ s.cfg.bound_pos) fun k hk => locate_seq_lt hk

theorem hostRead {s : State} (h : s.Inv) (a : Addr) : (hostRead a s).Inv := by
  rw [hostRead_eq]
  refine h.setRdata ?_ _
  rw [hostRead_rdata]
  split
  · exact Nat.mod_lt _ s.cfg.bound_pos
  · exact h.peek_lt _

theorem waitTurn {s : State} (h : s.Inv) : (waitTurn s).Inv := by
  rw [waitTurn_eq]
  exact (h.hostRead statusAddr).setHost _ _

theorem applyReset {s : State} (h : s.Inv) : (applyReset s).Inv where
  params := h.params
  regs := by simp [h.regs_lt, s.cfg.bound_pos]
  rootLength := by simp
  rootFits := fun w hw => by
    rw [applyReset_root] at hw
    rw [List.eq_of_mem_replicate hw]
    exact s.cfg.bound_pos
  nbitsRange := Nat.zero_le _
  rootAbove := fun i _ => by
    rw [rootRead, applyReset_root, List.getD_eq_getElem?_getD, List.getElem?_replicate]
    split <;> rfl
  seqForm := applyReset_seq_wf s
  seqFits := by simp
  doneOrErr := by simp
  errHasCode := by simp
  errRaised := by simp
  busyClear := by simp
  inFlightValid := by simp

theorem hostEvent {s t : State} {op : HostOp} (h : s.Inv) (hev : hostEvent s op = .next t) : t.Inv := by
  cases op with
  | read a =>
    cases hev
    exact h.hostRead a
  | write a v => exact h.hostWrite hev
  | wait =>
    cases hev
    exact h.waitTurn
  | reset =>
    cases hev
    exact h.applyReset

/-- The event is nothing, the host's next operation, or the completion of the command in flight. -/
theorem step {s t : State} (h : s.Inv) (hstep : step s = .next t) : t.Inv := by
  unfold Machine.step at hstep
  obtain ⟨-, -, hev⟩ | ⟨op, rest, -, -, hev⟩ | ⟨op, rest, later, -, -, -, hev⟩ | ⟨i, -, -, hev⟩ := nextEvent_cases s
  · rw [hev] at hstep
    cases hstep
    exact h
  · exact (h.setHost rest s.turns).hostEvent (hev ▸ hstep)
  · exact (h.setHost rest later).hostEvent (hev ▸ hstep)
  · exact (h.setHost s.host s.turns.tail).exec (hev ▸ hstep)

end State.Inv

/-- Settles O49: the host's operations and the completion each keep the invariant (`State.Inv.hostEvent`,
`State.Inv.exec`). -/
theorem stepKeepsInvariant : Obligations.StepKeepsInvariant := fun _ _ h hstep => h.step hstep

end Sys2Proof.Machine

/-! # State: STATUS and CFG as words, and what an event may change (10_state.md) -/

namespace Sys2Proof.Machine

/-! ## The fields of STATUS and CFG (R21, R23) -/

@[simp] theorem writtenStatus_done (st : Status) (v : Nat) : (writtenStatus st v).done = st.done := by
  unfold writtenStatus
  split <;> rfl

@[simp] theorem writtenStatus_err (st : Status) (v : Nat) : (writtenStatus st v).err = st.err := by
  unfold writtenStatus
  split <;> rfl

@[simp] theorem writtenStatus_accv (st : Status) (v : Nat) :
    (writtenStatus st v).accv = if v.testBit 3 then false else st.accv := by
  unfold writtenStatus
  split <;> rfl

/-- A bit of a word from the word's quotient, the form `omega` computes. -/
theorem testBit_of_div_mod {n i : Nat} {b : Bool} (h : n / 2 ^ i % 2 = b.toNat) : n.testBit i = b := by
  rw [Nat.testBit_eq_decide_div_mod_eq, h]
  cases b <;> rfl

/-- Settles O36: the five fields occupy disjoint bits, so each is a quotient's remainder. -/
theorem statusWordFields : Obligations.StatusWordFields := by
  intro s
  have hbusy := Bool.toNat_le (busy s)
  have hdone := Bool.toNat_le s.status.done
  have herr := Bool.toNat_le s.status.err
  have haccv := Bool.toNat_le s.status.accv
  have hcode : errNumber s.status.errCode ≤ 5 := by cases s.status.errCode <;> decide
  have hbit0 : (statusWord s).testBit 0 = busy s := testBit_of_div_mod (by unfold statusWord; omega)
  refine ⟨by rw [hbit0, busy_eq_true_iff], testBit_of_div_mod ?_, testBit_of_div_mod ?_, testBit_of_div_mod ?_,
    ?_, ?_⟩ <;> unfold statusWord <;> omega

theorem cfgWord_fields {p : Params} (h : p.wf = true) :
    cfgWord p % 2 ^ 8 = p.logNMax ∧ cfgWord p / 2 ^ 8 % 2 ^ 16 = p.width ∧ cfgWord p / 2 ^ 24 % 2 ^ 8 = 1 ∧
      cfgWord p / 2 ^ 32 = 0 := by
  obtain ⟨-, hwidth, -, hcap⟩ := (Params.wf_iff p).mp h
  unfold cfgWord
  omega

/-! ## What an address names (R50) -/

theorem registerAt_eq_cmd {n : Nat} (h : registerAt n = .cmd) : n = 0x001 := by
  unfold registerAt at h
  split at h <;> cases h
  rfl

theorem registerAt_eq_status {n : Nat} (h : registerAt n = .status) : n = 0x002 := by
  unfold registerAt at h
  split at h <;> cases h
  rfl

theorem registerAt_operand {n : Nat} (h : isOperand (registerAt n) = true) : 0x003 ≤ n ∧ n ≤ 0x007 := by
  unfold registerAt at h
  split at h <;> cases h <;> decide

/-- The four ranges of the map. -/
theorem locate_cases (p : Params) (a : Addr) :
    locate p a = registerAt a.toNat ∨ (∃ i, locate p a = .root i) ∨
    (∃ k < p.nMax, a.toNat = 0x1000 + k ∧ locate p a = .seq k) ∨ locate p a = .reserved := by
  unfold locate
  dsimp only
  split_ifs with hreg hroot hseq
  · exact .inl rfl
  · exact .inr (.inl ⟨_, rfl⟩)
  · exact .inr (.inr (.inl ⟨a.toNat - 0x1000, by omega, by omega, rfl⟩))
  · exact .inr (.inr (.inr rfl))

theorem eq_cmdAddr_of_locate {p : Params} {a : Addr} (h : locate p a = .cmd) : a = cmdAddr := by
  obtain hl | ⟨i, hl⟩ | ⟨k, -, -, hl⟩ | hl := locate_cases p a <;> rw [hl] at h
  · exact BitVec.eq_of_toNat_eq (registerAt_eq_cmd h)
  all_goals cases h

theorem eq_statusAddr_of_locate {p : Params} {a : Addr} (h : locate p a = .status) : a = statusAddr := by
  obtain hl | ⟨i, hl⟩ | ⟨k, -, -, hl⟩ | hl := locate_cases p a <;> rw [hl] at h
  · exact BitVec.eq_of_toNat_eq (registerAt_eq_status h)
  all_goals cases h

/-- The locations a busy block protects are the five operand registers and SEQ (R240). -/
theorem operand_address {p : Params} {a : Addr} (h : isOperand (locate p a) = true) :
    (0x003 ≤ a.toNat ∧ a.toNat ≤ 0x007) ∨ ∃ k < p.nMax, a.toNat = 0x1000 + k ∧ locate p a = .seq k := by
  obtain hl | ⟨i, hl⟩ | hseq | hl := locate_cases p a
  · exact .inl (registerAt_operand (hl ▸ h))
  · simp [hl, isOperand] at h
  · exact .inr hseq
  · simp [hl, isOperand] at h

/-! ## What a write to an operand location leaves unchanged (R56) -/

@[simp] theorem poke_cfg (s : State) (v : Nat) (loc : Loc) : (poke s v loc).cfg = s.cfg := by cases loc <;> rfl
@[simp] theorem poke_result (s : State) (v : Nat) (loc : Loc) : (poke s v loc).result = s.result := by cases loc <;> rfl
@[simp] theorem poke_baseRoot (s : State) (v : Nat) (loc : Loc) : (poke s v loc).baseRoot = s.baseRoot := by
  cases loc <;> rfl
@[simp] theorem poke_nbits (s : State) (v : Nat) (loc : Loc) : (poke s v loc).nbits = s.nbits := by cases loc <;> rfl
@[simp] theorem poke_root (s : State) (v : Nat) (loc : Loc) : (poke s v loc).root = s.root := by cases loc <;> rfl
@[simp] theorem poke_inflight (s : State) (v : Nat) (loc : Loc) : (poke s v loc).inflight = s.inflight := by
  cases loc <;> rfl

theorem poke_status_of_operand {loc : Loc} (h : isOperand loc = true) (s : State) (v : Nat) :
    (poke s v loc).status = s.status := by
  cases loc with
  | status => cases h
  | _ => rfl

/-- A write reaches SEQ at the one entry it names. -/
theorem seqRead_poke (s : State) (v : Nat) (loc : Loc) (k : Nat) :
    seqRead (poke s v loc) k = if loc = .seq k then v else seqRead s k := by
  cases loc with
  | seq j => simp [poke, seqRead_seqWrite, eq_comm]
  | _ => rfl

/-! ## What a completion's work leaves unchanged (R104, R121, R141, R161) -/

/-- The outputs and SEQ are all that a command's work can change. -/
theorem performOf_eq (i : Instr) (s : State) :
    performOf i s
      = { s with
          result := (performOf i s).result
          baseRoot := (performOf i s).baseRoot
          nbits := (performOf i s).nbits
          root := (performOf i s).root
          seq := (performOf i s).seq } := by
  cases i with
  | modpow | precomputeRoots => rfl
  | nttTransform =>
    simp only [performOf]
    rw [performTransform_eq]
    rfl

@[simp] theorem performOf_cfg (i : Instr) (s : State) : (performOf i s).cfg = s.cfg := by rw [performOf_eq]
@[simp] theorem performOf_status (i : Instr) (s : State) : (performOf i s).status = s.status := by rw [performOf_eq]
@[simp] theorem performOf_mod (i : Instr) (s : State) : (performOf i s).mod = s.mod := by rw [performOf_eq]
@[simp] theorem performOf_gen (i : Instr) (s : State) : (performOf i s).gen = s.gen := by rw [performOf_eq]
@[simp] theorem performOf_len (i : Instr) (s : State) : (performOf i s).len = s.len := by rw [performOf_eq]
@[simp] theorem performOf_base (i : Instr) (s : State) : (performOf i s).base = s.base := by rw [performOf_eq]
@[simp] theorem performOf_exp (i : Instr) (s : State) : (performOf i s).exp = s.exp := by rw [performOf_eq]

/-- RESULT is MODPOW's alone (R35). -/
theorem performOf_result_of_ne {i : Instr} (h : i ≠ .modpow) (s : State) : (performOf i s).result = s.result := by
  cases i with
  | modpow => exact absurd rfl h
  | precomputeRoots => rfl
  | nttTransform =>
    simp only [performOf]
    rw [performTransform_eq]
    rfl

/-- SEQ is NTT_TRANSFORM's alone, up to LEN (R161, R169). -/
theorem seqRead_performOf_of_ne {i : Instr} {k : Nat} {s : State} (h : seqRead (performOf i s) k ≠ seqRead s k) :
    i = .nttTransform ∧ k < s.len := by
  cases i with
  | modpow | precomputeRoots => exact absurd rfl h
  | nttTransform =>
    simp only [performOf, seqRead_performTransform] at h
    refine ⟨rfl, ?_⟩
    by_contra hk
    exact h (if_neg hk)

/-! ## A command word written to CMD (R82, R101) -/

theorem decode_encode (i : Instr) : decode (encode i) = .command i := by cases i <;> rfl

theorem encode_lt (i : Instr) : encode i < 2 ^ 8 := by cases i <;> decide

theorem opcodeOf_of_commandOfOpcode {n : Nat} {i : Instr} (h : commandOfOpcode n = .command i) : n = opcodeOf i := by
  unfold commandOfOpcode at h
  split at h <;> cases h <;> rfl

/-- A legal word is its command's word (R81). -/
theorem eq_encode_of_decode {v : Nat} {i : Instr} (h : decode v = .command i) : v = encode i := by
  unfold decode at h
  split_ifs at h with hres
  have hop := opcodeOf_of_commandOfOpcode h
  simp only [reservedField, opcodeField, encode, commandWord] at *
  omega

/-- An illegal word fails the first check (R82, R106). -/
theorem validate_of_illegal {v : Nat} (h : decode v = .illegalCommand) (s : State) :
    validate s v = .illegalCommand := by
  refine if_pos ?_
  by_contra hlegal
  rw [not_or, not_not, not_not] at hlegal
  obtain ⟨hres, hop | hop | hop⟩ := hlegal <;> simp [decode, hres, hop, commandOfOpcode] at h

theorem commandWrite_busy {s : State} (h : s.inflight ≠ none) (v : Nat) : commandWrite v s = .next (dropWrite s) :=
  if_pos ((busy_eq_true_iff s).mpr h)

theorem commandWrite_command {s : State} {v : Nat} {i : Instr} (hidle : s.inflight = none)
    (hdecode : decode v = .command i) : commandWrite v s = exec i s := by
  rw [commandWrite, if_neg (by simp [hidle]), hdecode]

/-- Everything an idle block does with a word written to CMD: it accepts or rejects it (R101 to R103). -/
theorem commandWrite_idle {s : State} (hidle : s.inflight = none) (v : Nat) :
    (∃ i, v = encode i ∧ operandsOk i s ∧ commandWrite v s = .next (accept i s)) ∨
    (validate s v ≠ .none ∧ commandWrite v s = .next (reject (validate s v) s)) := by
  cases hd : decode v with
  | illegalCommand =>
    rw [validate_of_illegal hd]
    exact .inr ⟨by decide, by rw [commandWrite, if_neg (by simp [hidle]), hd]⟩
  | command i =>
    rw [commandWrite_command hidle hd, exec_eq, runCommand_idle hidle, present_eq, eq_encode_of_decode hd]
    split_ifs with hok
    · exact .inl ⟨i, rfl, (validate_encode_eq_none_iff s i).mp hok, rfl⟩
    · exact .inr ⟨hok, rfl⟩

/-- A command in flight on validated operands completes (R104). -/
theorem exec_completes {i : Instr} {s : State} (hi : s.inflight = some i) (hok : operandsOk i s) :
    exec i s = .next (finish (performOf i s)) := by
  rw [exec_eq, runCommand_completes hi ((validate_encode_eq_none_iff s i).mpr hok)]

/-! ## Everything a step can do (R59) -/

/-- The events of the block by what they change: `StepEvent s t` says that `t` follows `s` by one of them. Host
operations come off the head of the host's list. -/
inductive StepEvent (s : State) : State → Prop
  /-- No register changes: a read, a turn of `WAIT`, an ignored write, or nothing at all (R55, R57, R58, R85, R217). -/
  | silent (ops : List HostOp) (later : List Bool) (rdata draws : Nat) :
      StepEvent s { s with host := ops, turns := later, rdata := rdata, draws := draws }
  /-- The reset event (R230). -/
  | reset {rest : List HostOp} {later : List Bool} (hhost : s.host = .reset :: rest) :
      StepEvent s (applyReset { s with host := rest, turns := later })
  /-- A write dropped while busy (R240, R241). -/
  | drop {a : Addr} {v : Nat} {rest : List HostOp} {later : List Bool} (hhost : s.host = .write a v :: rest)
      (hbusy : s.inflight ≠ none) (hloc : locate s.cfg a = .cmd ∨ isOperand (locate s.cfg a) = true) :
      StepEvent s (dropWrite { s with host := rest, turns := later })
  /-- A write to STATUS (R27). -/
  | statusWrite {a : Addr} {v : Nat} {rest : List HostOp} {later : List Bool} (hhost : s.host = .write a v :: rest)
      (hloc : locate s.cfg a = .status) :
      StepEvent s { s with host := rest, turns := later, status := writtenStatus s.status (v % s.cfg.bound) }
  /-- A write to an operand register or a SEQ entry while idle (R56). -/
  | store {a : Addr} {v : Nat} {rest : List HostOp} {later : List Bool} (hhost : s.host = .write a v :: rest)
      (hidle : s.inflight = none) (hop : isOperand (locate s.cfg a) = true) :
      StepEvent s (poke { s with host := rest, turns := later } (v % s.cfg.bound) (locate s.cfg a))
  /-- The acceptance of a command word (R102). -/
  | accept {a : Addr} {v : Nat} {i : Instr} {rest : List HostOp} {later : List Bool}
      (hhost : s.host = .write a v :: rest) (hidle : s.inflight = none) (hloc : locate s.cfg a = .cmd)
      (hword : v % s.cfg.bound = encode i) (hok : operandsOk i s) :
      StepEvent s (accept i { s with host := rest, turns := later })
  /-- The rejection of a command word (R103). -/
  | reject {a : Addr} {v : Nat} {rest : List HostOp} {later : List Bool} (hhost : s.host = .write a v :: rest)
      (hidle : s.inflight = none) (hloc : locate s.cfg a = .cmd) (hcode : validate s (v % s.cfg.bound) ≠ .none) :
      StepEvent s (reject (validate s (v % s.cfg.bound)) { s with host := rest, turns := later })
  /-- The completion of the command in flight (R104). -/
  | complete {i : Instr} (hi : s.inflight = some i) (hok : operandsOk i s) :
      StepEvent s (finish (performOf i { s with turns := s.turns.tail }))

theorem stepEvent_of_commandWrite {s t : State} {a : Addr} {v : Nat} {rest : List HostOp} {later : List Bool}
    (hhost : s.host = .write a v :: rest) (hloc : locate s.cfg a = .cmd)
    (h : commandWrite (v % s.cfg.bound) { s with host := rest, turns := later } = .next t) : StepEvent s t := by
  by_cases hidle : s.inflight = none
  · obtain ⟨i, hword, hok, hw⟩ | ⟨hcode, hw⟩ :=
      commandWrite_idle (s := { s with host := rest, turns := later }) hidle (v % s.cfg.bound)
    · cases hw.symm.trans h
      exact .accept hhost hidle hloc hword (operandsOk_of_eq hok rfl rfl rfl)
    · cases hw.symm.trans h
      exact .reject hhost hidle hloc hcode
  · cases (commandWrite_busy (s := { s with host := rest, turns := later }) hidle _).symm.trans h
    exact .drop hhost hidle (.inl hloc)

theorem stepEvent_storeWrite {s : State} {a : Addr} {v : Nat} {rest : List HostOp} {later : List Bool}
    (hhost : s.host = .write a v :: rest) :
    StepEvent s (storeWrite { s with host := rest, turns := later } (v % s.cfg.bound) (locate s.cfg a)) := by
  by_cases hop : isOperand (locate s.cfg a) = true
  · by_cases hidle : s.inflight = none
    · simpa [storeWrite, busy, hidle, hop] using StepEvent.store hhost hidle hop
    · have hbusy := (busy_eq_true_iff { s with host := rest, turns := later }).mpr hidle
      simpa [storeWrite, hbusy, hop] using StepEvent.drop hhost hidle (.inr hop)
  · rw [storeWrite, if_neg (by simp [hop])]
    cases hloc : locate s.cfg a with
    | status => exact .statusWrite hhost hloc
    | cfg | cmd | result | baseRoot | nbits | root | reserved => exact .silent rest later s.rdata s.draws
    | mod | gen | len | base | exp | seq => simp [hloc, isOperand] at hop

theorem stepEvent_of_hostEvent {s t : State} {op : HostOp} {rest : List HostOp} {later : List Bool}
    (hhost : s.host = op :: rest) (h : hostEvent { s with host := rest, turns := later } op = .next t) :
    StepEvent s t := by
  cases op with
  | read a =>
    cases h
    rw [hostRead_eq]
    exact .silent ..
  | write a v =>
    change hostWrite a v _ = .next t at h
    unfold hostWrite at h
    split at h
    · rename_i hloc
      exact stepEvent_of_commandWrite hhost hloc h
    · cases h
      exact stepEvent_storeWrite hhost
  | wait =>
    cases h
    rw [waitTurn_eq, hostRead_eq]
    exact .silent ..
  | reset =>
    cases h
    exact .reset hhost

/-- Every step is one of the events. -/
theorem stepEvent_of_step {s t : State} (h : step s = .next t) : StepEvent s t := by
  unfold step at h
  obtain ⟨-, -, hev⟩ | ⟨op, rest, -, hhost, hev⟩ | ⟨op, rest, later, -, hhost, -, hev⟩ | ⟨i, hi, -, hev⟩ :=
    nextEvent_cases s
  · cases hev.symm.trans h
    exact .silent s.host s.turns s.rdata s.draws
  · exact stepEvent_of_hostEvent (later := s.turns) hhost (hev.symm.trans h)
  · exact stepEvent_of_hostEvent hhost (hev.symm.trans h)
  · rw [hev, exec_eq] at h
    obtain ⟨hidle, -⟩ | ⟨-, hv, rfl⟩ | ⟨j, hj, hne, -⟩ := runCommand_next h
    · cases hi.symm.trans hidle
    · exact .complete hi (operandsOk_of_eq ((validate_encode_eq_none_iff _ i).mp hv) rfl rfl rfl)
    · exact absurd (Option.some.inj (hj.symm.trans hi)) hne

/-! ## The obligations -/

/-- Settles O19: a command is presented, completes, or is dropped (`runCommand_next`), and each writes its own fields of
STATUS. -/
theorem commandStatusFrame : Obligations.CommandStatusFrame := by
  intro i s t hexec
  rw [exec_eq] at hexec
  obtain ⟨hidle, rfl⟩ | ⟨hi, -, rfl⟩ | ⟨j, hj, hne, rfl⟩ := runCommand_next hexec
  · have haccv : (present i s).status.accv = s.status.accv := by
      rw [present_eq]
      split_ifs <;> rfl
    simp [hidle, haccv]
  · simp [hi, completedStatus]
  · simp [hj, hne, droppedStatus]

/-- Settles O35: the fields by `cfgWord_fields`; no event writes CFG. -/
theorem cfgFieldsAreConstant : Obligations.CfgFieldsAreConstant := by
  refine ⟨fun p => cfgWord_fields, fun s t hstep => ?_⟩
  cases stepEvent_of_step hstep <;> simp

/-- Settles O53: of the events but reset only a completion writes an output, and only the outputs of its command. -/
theorem resultsWrittenOnlyByCompletion : Obligations.ResultsWrittenOnlyByCompletion := by
  intro s t hstep hnoreset
  cases stepEvent_of_step hstep with
  | reset hhost => exact absurd hhost (hnoreset _)
  | silent | drop | statusWrite | store | accept | reject => simp
  | @complete i hi hok =>
    cases i with
    | modpow => simp [hi, performOf]
    | precomputeRoots | nttTransform => simp [hi, performOf_result_of_ne]

/-- Settles O54: a store changes the entry it names (`seqRead_poke`), a completion the entries a transform covers
(`seqRead_performOf_of_ne`). -/
theorem sequenceChangesOnlyBy : Obligations.SequenceChangesOnlyBy := by
  intro s t k hstep hne
  cases stepEvent_of_step hstep with
  | silent | drop | statusWrite | accept | reject => exact absurd rfl hne
  | reset hhost => exact .inl ⟨_, hhost⟩
  | @store a v rest later hhost hidle hop =>
    rw [seqRead_poke] at hne ⊢
    by_cases hloc : locate s.cfg a = .seq k
    · exact .inr (.inl ⟨hidle, a, v, rest, hhost, hloc, if_pos hloc⟩)
    · exact absurd (if_neg hloc) hne
  | complete hi hok =>
    obtain ⟨rfl, hk⟩ := seqRead_performOf_of_ne hne
    exact .inr (.inr ⟨hi, rfl, hk⟩)

/-- Settles O55: of the events but reset only a store writes an operand register, and one that names a SEQ entry does
not. -/
theorem operandsWrittenOnlyByHost : Obligations.OperandsWrittenOnlyByHost := by
  intro s t hstep hnoreset hne
  cases stepEvent_of_step hstep with
  | reset hhost => exact absurd hhost (hnoreset _)
  | silent | drop | statusWrite | accept | reject | complete => simp at hne
  | @store a v rest later hhost hidle hop =>
    obtain haddr | ⟨k, -, -, hloc⟩ := operand_address hop
    · exact ⟨hidle, a, v, rest, hhost, haddr⟩
    · simp [hloc, poke] at hne

/-- Settles O56: only a rejection sets ERR, with Validate's code. -/
theorem errorRaisedOnlyByCommandWrite : Obligations.ErrorRaisedOnlyByCommandWrite := by
  intro s t hstep herr herr'
  cases stepEvent_of_step hstep with
  | silent | reset | drop | statusWrite | accept | complete => simp [herr] at herr'
  | store _ _ hop => simp [poke_status_of_operand hop, herr] at herr'
  | reject hhost hidle hloc hcode =>
    obtain rfl := eq_cmdAddr_of_locate hloc
    exact ⟨hidle, _, _, hhost, hcode, rfl⟩

/-- Settles O57: only a completion sets DONE. -/
theorem doneSetOnlyByCompletion : Obligations.DoneSetOnlyByCompletion := by
  intro s t hstep hdone hdone'
  cases stepEvent_of_step hstep with
  | silent | reset | drop | statusWrite | accept | reject => simp [hdone] at hdone'
  | store _ _ hop => simp [poke_status_of_operand hop, hdone] at hdone'
  | complete hi hok => exact ⟨_, hi, rfl, exec_completes hi (operandsOk_of_eq hok rfl rfl rfl)⟩

/-- The addresses whose writes a busy block drops (R240, R241). -/
theorem dropped_address {p : Params} {a : Addr} (h : locate p a = .cmd ∨ isOperand (locate p a) = true) :
    (0x003 ≤ a.toNat ∧ a.toNat ≤ 0x007) ∨ a.toNat = 0x001 ∨ (0x1000 ≤ a.toNat ∧ a.toNat < 0x1000 + p.nMax) := by
  obtain hcmd | hop := h
  · exact .inr (.inl (congrArg BitVec.toNat (eq_cmdAddr_of_locate hcmd)))
  · obtain haddr | ⟨k, hk, haddr, -⟩ := operand_address hop
    · exact .inl haddr
    · exact .inr (.inr (by omega))

/-- Settles O58: only a dropped write sets ACCV, only reset and a STATUS write clear it. -/
theorem accvSetAndCleared : Obligations.AccvSetAndCleared := by
  intro s t hstep
  cases stepEvent_of_step hstep with
  | silent | accept | reject | complete => simp +contextual
  | store _ _ hop => simp +contextual [poke_status_of_operand hop]
  | reset hhost => exact ⟨fun _ h => by simp at h, fun _ _ => .inl ⟨_, hhost⟩⟩
  | @drop a v rest later hhost hbusy hloc =>
    exact ⟨fun _ _ => ⟨hbusy, a, v, rest, hhost, dropped_address hloc⟩, fun _ h => by simp at h⟩
  | @statusWrite a v rest later hhost hloc =>
    obtain rfl := eq_statusAddr_of_locate hloc
    refine ⟨fun h h' => by simp [h] at h', fun h h' => .inr ⟨v, rest, hhost, ?_⟩⟩
    simpa [h] using h'

/-- Settles O59: only an acceptance sets INFLIGHT, only a completion and reset clear it. -/
theorem inFlightSetOnlyByAcceptance : Obligations.InFlightSetOnlyByAcceptance := by
  intro s t hstep
  cases stepEvent_of_step hstep with
  | silent | drop | statusWrite | store => simp +contextual
  | reset hhost => simp [hhost]
  | reject _ hidle => simp [hidle]
  | complete hi => simp [hi]
  | @accept a v i rest later hhost hidle hloc hword hok =>
    obtain rfl := eq_cmdAddr_of_locate hloc
    refine ⟨fun j _ hj => ?_, fun j hj => by simp [hidle] at hj⟩
    obtain rfl : i = j := Option.some.inj hj
    exact ⟨hok, v, rest, hhost, hword⟩

/-! ## A command word at the head of the host's list (logs 4 and 9) -/

theorem step_idle {s : State} {op : HostOp} {rest : List HostOp} (hidle : s.inflight = none)
    (hhost : s.host = op :: rest) : step s = hostEvent { s with host := rest } op := by
  simp [step, nextEvent, hidle, hhost]

theorem hostEvent_cmdAddr (s : State) (v : Nat) :
    hostEvent s (.write cmdAddr v) = commandWrite (v % s.cfg.bound) s := rfl

/-- A command word on the host's list of an idle block is the next step's (R38, R59, R101). -/
theorem step_command {s : State} {v : Nat} {rest : List HostOp} {i : Instr} (hidle : s.inflight = none)
    (hhost : s.host = .write cmdAddr v :: rest) (hdecode : decode (v % s.cfg.bound) = .command i) :
    step s = exec i { s with host := rest } := by
  rw [step_idle hidle hhost, hostEvent_cmdAddr]
  exact commandWrite_command hidle hdecode

/-- Settles O5: `step_command`; a placed word fits the placing's 64 bits and the bus. -/
theorem stepRunsPresentedCommand : Obligations.StepRunsPresentedCommand := by
  refine ⟨fun s v rest i => step_command, fun s i hwf => ?_⟩
  have hbound := Params.two_pow_32_le_bound hwf
  have hword := encode_lt i
  refine step_command (s := s.withFetchWord 64 (encode i)) rfl rfl ?_
  show decode (encode i % 2 ^ 64 % s.cfg.bound) = .command i
  rw [Nat.mod_eq_of_lt (by omega : encode i < 2 ^ 64), Nat.mod_eq_of_lt (by omega), decode_encode]

end Sys2Proof.Machine

/-! # Memory: the register interface, address by address (20_memory.md) -/

namespace Sys2Proof

theorem Params.nMax_le {p : Params} (hcap : p.logNMax ≤ 12) : p.nMax ≤ 0x1000 :=
  Nat.pow_le_pow_right (by decide) hcap

end Sys2Proof

namespace Sys2Proof.Machine

/-! ## What each address names (R50) -/

theorem locate_register {a : Addr} {n : Nat} (ha : a.toNat = n) (hn : n < 0x040) (p : Params) :
    locate p a = registerAt n := by
  subst ha
  exact if_pos hn

theorem locate_root {p : Params} {a : Addr} {i : Nat} (hi : i < p.logNMax) (ha : a.toNat = 0x040 + i) :
    locate p a = .root i := by
  unfold locate
  dsimp only
  rw [if_neg (by omega), if_pos (by omega), ha, Nat.add_sub_cancel_left]

/-- The bound on the capacity keeps the ROOT entries below SEQ. -/
theorem locate_seq {p : Params} {a : Addr} {k : Nat} (hcap : p.logNMax ≤ 12) (hk : k < p.nMax)
    (ha : a.toNat = 0x1000 + k) : locate p a = .seq k := by
  unfold locate
  dsimp only
  rw [if_neg (by omega), if_neg (by omega), if_pos (by omega), ha, Nat.add_sub_cancel_left]

theorem registerAt_reserved {n : Nat} (h : 0x00B ≤ n) : registerAt n = .reserved := by
  unfold registerAt
  split
  case h_12 => rfl
  all_goals omega

theorem locate_reserved {p : Params} {a : Addr} (hcap : p.logNMax ≤ 12)
    (ha : (0x00B ≤ a.toNat ∧ a.toNat < 0x040) ∨ (0x040 + p.logNMax ≤ a.toNat ∧ a.toNat < 0x1000) ∨
      0x1000 + p.nMax ≤ a.toNat) : locate p a = .reserved := by
  by_cases hreg : a.toNat < 0x040
  · rw [locate_register rfl hreg, registerAt_reserved (by omega)]
  · unfold locate
    dsimp only
    rw [if_neg hreg, if_neg (by omega), if_neg (by omega)]

/-- The outputs' addresses (R242). -/
theorem isOutput_locate {p : Params} {a : Addr} (hcap : p.logNMax ≤ 12)
    (ha : (0x008 ≤ a.toNat ∧ a.toNat ≤ 0x00A) ∨ (0x040 ≤ a.toNat ∧ a.toNat < 0x040 + p.logNMax) ∨
      (0x1000 ≤ a.toNat ∧ a.toNat < 0x1000 + p.nMax)) : isOutput (locate p a) = true := by
  obtain ⟨hlo, hhi⟩ | ⟨hlo, hhi⟩ | ⟨hlo, hhi⟩ := ha
  · rw [locate_register rfl (by omega)]
    generalize a.toNat = n at hlo hhi
    interval_cases n <;> rfl
  · rw [locate_root (i := a.toNat - 0x040) (by omega) (by omega)]
    rfl
  · rw [locate_seq (k := a.toNat - 0x1000) hcap (by omega) (by omega)]
    rfl

/-- The operands' addresses (R240), the converse of `operand_address`. -/
theorem isOperand_locate {p : Params} {a : Addr} (hcap : p.logNMax ≤ 12)
    (ha : (0x003 ≤ a.toNat ∧ a.toNat ≤ 0x007) ∨ (0x1000 ≤ a.toNat ∧ a.toNat < 0x1000 + p.nMax)) :
    isOperand (locate p a) = true := by
  obtain ⟨hlo, hhi⟩ | ⟨hlo, hhi⟩ := ha
  · rw [locate_register rfl (by omega)]
    generalize a.toNat = n at hlo hhi
    interval_cases n <;> rfl
  · rw [locate_seq (k := a.toNat - 0x1000) hcap (by omega) (by omega)]
    rfl

theorem locate_regAddr (p : Params) (r : Reg) : locate p (regAddr r) = registerAt (regAddr r).toNat :=
  locate_register rfl (by cases r <;> decide) p

theorem locate_rootAddr {p : Params} {i : Nat} (hcap : p.logNMax ≤ 12) (hi : i < p.logNMax) :
    locate p (rootAddr i) = .root i :=
  locate_root hi (Nat.mod_eq_of_lt (by omega))

theorem locate_seqAddr {p : Params} {k : Nat} (hcap : p.logNMax ≤ 12) (hk : k < p.nMax) :
    locate p (seqAddr k) = .seq k := by
  have hmax := Params.nMax_le hcap
  exact locate_seq hcap hk (Nat.mod_eq_of_lt (by omega))

/-! ## Host reads (R55, R242, R243) -/

/-- A location that is no output is read as it stands, idle or busy. -/
theorem hostRead_of_not_output {s : State} {a : Addr} {loc : Loc} (hloc : locate s.cfg a = loc)
    (hout : isOutput loc = false) : hostRead a s = { s with rdata := peek s loc } := by
  subst hloc
  simp [hostRead, hout]

theorem hostRead_idle {s : State} {a : Addr} {loc : Loc} (hidle : s.inflight = none) (hloc : locate s.cfg a = loc) :
    hostRead a s = { s with rdata := peek s loc } := by
  subst hloc
  simp [hostRead, (busy_eq_false_iff s).mpr hidle]

theorem hostRead_busy_output {s : State} {a : Addr} (hbusy : s.inflight ≠ none)
    (hout : isOutput (locate s.cfg a) = true) :
    hostRead a s = { s with rdata := busyDraw s, draws := s.draws + 1 } := by
  simp [hostRead, (busy_eq_true_iff s).mpr hbusy, hout]

/-! ## Host writes (R56 to R58, R240) -/

theorem hostWrite_of_ne_cmd {s : State} {a : Addr} {loc : Loc} (hloc : locate s.cfg a = loc) (hne : loc ≠ .cmd)
    (v : Nat) : hostWrite a v s = .next (storeWrite s (v % s.cfg.bound) loc) := by
  unfold hostWrite
  split
  · rename_i hcmd
    exact absurd (hloc.symm.trans hcmd) hne
  · rw [hloc]

theorem hostWrite_cmd {s : State} {a : Addr} (hloc : locate s.cfg a = .cmd) (v : Nat) :
    hostWrite a v s = commandWrite (v % s.cfg.bound) s := by
  simp only [hostWrite, hloc]

theorem ne_cmd_of_isOperand {loc : Loc} (hop : isOperand loc = true) : loc ≠ .cmd := by
  rintro rfl
  cases hop

theorem hostWrite_operand_idle {s : State} {a : Addr} {loc : Loc} {v : Nat} (hidle : s.inflight = none)
    (hv : v < s.cfg.bound) (hloc : locate s.cfg a = loc) (hop : isOperand loc = true) :
    hostWrite a v s = .next (poke s v loc) := by
  rw [hostWrite_of_ne_cmd hloc (ne_cmd_of_isOperand hop), Nat.mod_eq_of_lt hv, storeWrite,
    (busy_eq_false_iff s).mpr hidle]
  rfl

theorem hostWrite_operand_busy {s : State} {a : Addr} (hbusy : s.inflight ≠ none)
    (hop : isOperand (locate s.cfg a) = true) (v : Nat) : hostWrite a v s = .next (dropWrite s) := by
  rw [hostWrite_of_ne_cmd rfl (ne_cmd_of_isOperand hop), storeWrite, (busy_eq_true_iff s).mpr hbusy, hop]
  rfl

theorem storeWrite_status (s : State) (v : Nat) :
    storeWrite s v .status = { s with status := writtenStatus s.status v } := by
  simp [storeWrite, isOperand, poke]

theorem writtenStatus_eq (st : Status) (v : Nat) :
    writtenStatus st v = if v / 2 ^ 3 % 2 = 1 then { st with accv := false } else st := by
  simp only [writtenStatus, Nat.testBit_eq_decide_div_mod_eq, decide_eq_true_eq]

/-- Of the locations a store reaches, only the operands and STATUS hold what it can change. -/
theorem storeWrite_ignored {loc : Loc} (hop : isOperand loc = false) (hstatus : loc ≠ .status) (s : State) (v : Nat) :
    storeWrite s v loc = s := by
  rw [storeWrite, if_neg (by simp [hop])]
  cases loc with
  | status => exact absurd rfl hstatus
  | cfg | cmd | result | baseRoot | nbits | root | reserved => rfl
  | mod | gen | len | base | exp | seq => cases hop

/-- The addresses that ignore writes (R57, R58), idle or busy: none of them names CMD, STATUS or an operand. -/
theorem hostWrite_ignored {s : State} {a : Addr}
    (ha : a.toNat = 0x000 ∨ (0x008 ≤ a.toNat ∧ a.toNat < 0x1000) ∨ 0x1000 + s.cfg.nMax ≤ a.toNat) (v : Nat) :
    hostWrite a v s = .next s := by
  have hcmd : locate s.cfg a ≠ .cmd := fun h => by
    have haddr : a.toNat = 0x001 := congrArg BitVec.toNat (eq_cmdAddr_of_locate h)
    omega
  have hstatus : locate s.cfg a ≠ .status := fun h => by
    have haddr : a.toNat = 0x002 := congrArg BitVec.toNat (eq_statusAddr_of_locate h)
    omega
  have hop : isOperand (locate s.cfg a) = false := Bool.eq_false_iff.mpr fun h => by
    obtain haddr | ⟨k, hk, haddr, -⟩ := operand_address h <;> omega
  rw [hostWrite_of_ne_cmd rfl hcmd, storeWrite_ignored hop hstatus]

/-! ## The obligations -/

/-- Settles O37: the address fixes the location (`locate_register`, `locate_root`, `locate_seq`, `locate_reserved`), and
the location with BUSY what is read. -/
theorem hostReadFollowsMap : Obligations.HostReadFollowsMap := by
  intro s a hcap
  have plain {n : Nat} (hn : n < 0x040) (hout : isOutput (registerAt n) = false) (ha : a.toNat = n) :
      (hostRead a s).rdata = peek s (registerAt n) :=
    congrArg State.rdata (hostRead_of_not_output (locate_register ha hn s.cfg) hout)
  have idle {loc : Loc} (hidle : s.inflight = none) (hloc : locate s.cfg a = loc) :
      (hostRead a s).rdata = peek s loc :=
    congrArg State.rdata (hostRead_idle hidle hloc)
  have output {n : Nat} (hn : n < 0x040) (ha : a.toNat = n) (hidle : s.inflight = none) :
      (hostRead a s).rdata = peek s (registerAt n) :=
    idle hidle (locate_register ha hn s.cfg)
  refine ⟨⟨_, _, hostRead_eq a s⟩, plain (by decide) rfl, plain (by decide) rfl, plain (by decide) rfl,
    plain (by decide) rfl, plain (by decide) rfl, plain (by decide) rfl, plain (by decide) rfl, plain (by decide) rfl,
    output (by decide), output (by decide), output (by decide),
    fun i hi ha hidle => idle hidle (locate_root hi ha),
    fun k hk ha hidle => idle hidle (locate_seq hcap hk ha), fun ha hbusy => ?_, fun ha => ?_⟩
  · rw [hostRead_busy_output hbusy (isOutput_locate hcap ha)]
    exact ⟨rfl, rfl⟩
  · rw [hostRead_of_not_output (locate_reserved hcap ha) rfl]
    rfl

/-- Settles O38: a write reaches CMD, STATUS or an operand, or is ignored; while busy an operand's is dropped. -/
theorem hostWriteFollowsMap : Obligations.HostWriteFollowsMap := by
  intro s a v hcap hv
  have hmod : v % s.cfg.bound = v := Nat.mod_eq_of_lt hv
  have stored {n : Nat} (hn : n < 0x040) (hop : isOperand (registerAt n) = true) (ha : a.toNat = n)
      (hidle : s.inflight = none) : hostWrite a v s = .next (poke s v (registerAt n)) :=
    hostWrite_operand_idle hidle hv (locate_register ha hn s.cfg) hop
  refine ⟨fun ha => ?_, fun ha => ?_, stored (by decide) rfl, stored (by decide) rfl, stored (by decide) rfl,
    stored (by decide) rfl, stored (by decide) rfl, fun k hk ha hidle => ?_,
    fun ha hbusy => hostWrite_operand_busy hbusy (isOperand_locate hcap ha) v, fun ha => hostWrite_ignored ha v⟩
  · rw [hostWrite_cmd (locate_register ha (by decide) s.cfg), hmod]
  · rw [hostWrite_of_ne_cmd (loc := .status) (locate_register ha (by decide) s.cfg) (by decide), hmod,
      storeWrite_status, writtenStatus_eq]
  · exact ⟨s.seq.write k v, hostWrite_operand_idle hidle hv (locate_seq hcap hk ha) rfl, seqRead_seqWrite s k v⟩

/-- Settles O39: every read-only address ignores writes (`hostWrite_ignored`). -/
theorem readOnlyWritesIgnored : Obligations.ReadOnlyWritesIgnored :=
  fun _ _ v _ ha => hostWrite_ignored (by omega) v

/-- Settles O40: a reserved address ignores writes, and is no output, so a read does not depend on BUSY. -/
theorem reservedReadsZeroIgnoresWrites : Obligations.ReservedReadsZeroIgnoresWrites :=
  fun _ _ v hcap ha => ⟨hostWrite_ignored (by omega) v, hostRead_of_not_output (locate_reserved hcap ha) rfl⟩

/-- Settles O43: the write is `seqWrite`, and `seqRead_seqWrite` says what every entry reads after it. -/
theorem sequenceReadAfterWrite : Obligations.SequenceReadAfterWrite := by
  intro s t k j v hcap hidle hk hj hv hw
  rw [hostWrite_operand_idle hidle hv (locate_seqAddr hcap hk) rfl] at hw
  cases hw
  rw [hostRead_idle (s := poke s v (.seq k)) hidle (locate_seqAddr hcap hj),
    hostRead_idle hidle (locate_seqAddr hcap hj)]
  exact seqRead_seqWrite s k v j

/-- Settles O7: the arms of `nextEvent` in which the host's list is looked at. -/
theorem stepTakesHostOperations : Obligations.StepTakesHostOperations :=
  ⟨fun s hidle hhost => by simp [step, nextEvent, hidle, hhost],
    fun s op rest => step_idle,
    fun s i op rest later hi hhost hturns => by simp [step, nextEvent, hi, hhost, hturns]⟩

/-- Settles O44: the registers' addresses are fixed numbers; a ROOT or SEQ address of a legal index fits the 13 bits of
the bus. -/
theorem namedAddresses : Obligations.NamedAddresses := by
  intro p hwf
  obtain ⟨-, -, -, hcap⟩ := (Params.wf_iff p).mp hwf
  have reg := locate_regAddr p
  exact ⟨⟨reg .cfg, reg .cmd, reg .status, reg .mod, reg .gen, reg .len, reg .base, reg .exp, reg .result,
    reg .baseRoot, reg .nbits⟩, fun i hi => locate_rootAddr hcap hi, fun k hk => locate_seqAddr hcap hk⟩

end Sys2Proof.Machine

/-! # Encoding: command words (30_encoding.md sections 1 to 3) and the polling loop `WAIT` (section 4) -/

namespace Sys2Proof.Machine

/-! ## The command words (R80 to R82) -/

/-- The per-command facts of Sys2Proof/Laws/PerInstr.lean, for every command. -/
theorem commandWord_statement (i : Instr) : Laws.CommandWord.Statement i := by
  cases i with
  | modpow => exact Laws.CommandWord.modpow
  | precomputeRoots => exact Laws.CommandWord.precomputeRoots
  | nttTransform => exact Laws.CommandWord.nttTransform

theorem decode_eq_command_iff (v : Nat) (i : Instr) : decode v = .command i ↔ v = encode i := by
  refine ⟨eq_encode_of_decode, ?_⟩
  rintro rfl
  exact decode_encode i

theorem decode_eq_illegal_iff (v : Nat) : decode v = .illegalCommand ↔ ∀ i, v ≠ encode i := by
  simp only [ne_eq, ← decode_eq_command_iff]
  cases decode v with
  | illegalCommand => exact iff_of_true rfl nofun
  | command i => exact iff_of_false nofun fun h => h i rfl

/-- The three grounds of R82 for calling a word illegal hold of no command's word. -/
theorem encode_not_illegal (i : Instr) : ¬(encode i % 256 = 0 ∨ 4 ≤ encode i % 256 ∨ encode i / 256 ≠ 0) := by
  cases i <;> decide

theorem commandWrite_illegal {s : State} {v : Nat} (hidle : s.inflight = none) (hdecode : decode v = .illegalCommand) :
    commandWrite v s = .next (reject .illegalCommand s) := by
  rw [commandWrite, if_neg (by simp [hidle]), hdecode]

/-! ## One step of the block with `WAIT` at the head of the host's list (R85, logs 4 and 12) -/

/-- STATUS is no output, so its read is never a draw (R243). -/
theorem hostRead_status (s : State) : hostRead statusAddr s = { s with rdata := statusWord s } :=
  hostRead_of_not_output (locate_regAddr s.cfg .status) rfl

/-- Bit 0 of STATUS is BUSY (R24). -/
theorem statusWord_testBit_zero (s : State) : (statusWord s).testBit 0 = busy s :=
  Bool.eq_iff_iff.mpr ((statusWordFields s).1.trans (busy_eq_true_iff s).symm)

theorem waitTurn_idle {s : State} (hidle : s.inflight = none) : waitTurn s = { s with rdata := statusWord s } := by
  simp only [waitTurn_eq, hostRead_status, statusWord_testBit_zero, (busy_eq_false_iff s).mpr hidle, Bool.false_eq_true,
    if_false]

theorem waitTurn_busy {s : State} (hbusy : s.inflight ≠ none) :
    waitTurn s = { s with host := .wait :: s.host, rdata := statusWord s } := by
  simp only [waitTurn_eq, hostRead_status, statusWord_testBit_zero, (busy_eq_true_iff s).mpr hbusy, if_true]

/-- While busy, a turn of `WAIT` uses up one of the host's turns and leaves `WAIT` on its list. -/
theorem step_wait_busy {s : State} {rest : List HostOp} {later : List Bool} (hbusy : s.inflight ≠ none)
    (hhost : s.host = .wait :: rest) (hturns : s.turns = true :: later) :
    step s = .next { s with turns := later, rdata := statusWord s } := by
  obtain ⟨i, hi⟩ := Option.ne_none_iff_exists'.mp hbusy
  rw [stepTakesHostOperations.2.2 s i _ rest later hi hhost hturns, hhost]
  exact congrArg Host.Outcome.next (waitTurn_busy (s := { s with host := rest, turns := later }) hbusy)

/-- When the host does not move, the command in flight completes on its validated operands (R104, R105). -/
theorem step_completes {s : State} {i : Instr} (hi : s.inflight = some i) (hok : operandsOk i s)
    (hturn : s.host = [] ∨ s.turns.headD false = false) :
    step s = .next (finish (performOf i { s with turns := s.turns.tail })) := by
  have hstep : step s = exec i { s with turns := s.turns.tail } := by
    obtain ⟨hidle, -⟩ | ⟨op, rest, hidle, -⟩ | ⟨op, rest, later, -, hhost, hturns, -⟩ | ⟨j, hj, -, hev⟩ :=
      nextEvent_cases s
    · simp [hi] at hidle
    · simp [hi] at hidle
    · simp [hhost, hturns] at hturn
    · obtain rfl : i = j := Option.some.inj (hi.symm.trans hj)
      exact hev
  rw [hstep]
  exact exec_completes hi (operandsOk_of_eq hok rfl rfl rfl)

/-! ## How many steps `WAIT` takes -/

/-- `WAIT` is over in `t`: it is off the host's list, `rest` being left, and BUSY was read as 0. -/
def WaitOver (rest : List HostOp) (t : State) : Prop :=
  t.host = rest ∧ t.inflight = none ∧ t.rdata.testBit 0 = false

/-- From an idle block `WAIT` is over after one step. -/
theorem run_wait_idle {s : State} {rest : List HostOp} (hidle : s.inflight = none) (hhost : s.host = .wait :: rest) :
    ∃ t, core.run 1 s = .next t ∧ WaitOver rest t := by
  have hstep : step s = .next { s with host := rest, rdata := statusWord s } := by
    rw [step_idle hidle hhost]
    exact congrArg Host.Outcome.next (waitTurn_idle (s := { s with host := rest }) hidle)
  refine ⟨_, core_run_succ 0 hstep, rfl, hidle, ?_⟩
  rw [statusWord_testBit_zero, busy_eq_false_iff]
  exact hidle

/-- When the command in flight completes next, `WAIT` is over after two steps. -/
theorem run_wait_completion {s : State} {rest : List HostOp} {i : Instr} (hi : s.inflight = some i)
    (hok : operandsOk i s) (hhost : s.host = .wait :: rest) (hturn : s.turns.headD false = false) :
    ∃ t, core.run 2 s = .next t ∧ WaitOver rest t := by
  rw [core_run_succ 1 (step_completes hi hok (.inr hturn))]
  exact run_wait_idle rfl (by rw [finish_host, performOf_eq]; exact hhost)

/-- When the host has no turn before the completion, idle or busy, `WAIT` is over within two steps. -/
theorem run_wait_of_no_turn {s : State} {rest : List HostOp} (h : s.Inv) (hhost : s.host = .wait :: rest)
    (hturn : s.turns.headD false = false) : ∃ n ≤ 2, ∃ t, core.run n s = .next t ∧ WaitOver rest t := by
  cases hi : s.inflight with
  | none => exact ⟨1, by decide, run_wait_idle hi hhost⟩
  | some i => exact ⟨2, le_rfl, run_wait_completion hi (h.inFlightValid i hi) hhost hturn⟩

/-- Each of the host's turns is one more read of STATUS; after them the command completes and the last read ends the
loop. -/
theorem run_wait (rest : List HostOp) (turns : List Bool) : ∀ {s : State}, s.Inv → s.host = .wait :: rest →
    s.turns = turns → ∃ n ≤ turns.length + 2, ∃ t, core.run n s = .next t ∧ WaitOver rest t := by
  induction turns with
  | nil =>
    intro s h hhost hturns
    exact run_wait_of_no_turn h hhost (by rw [hturns]; rfl)
  | cons hostMoves later ih =>
    intro s h hhost hturns
    cases hostMoves with
    | false =>
      obtain ⟨n, hn, hrun⟩ := run_wait_of_no_turn h hhost (by rw [hturns]; rfl)
      exact ⟨n, by omega, hrun⟩
    | true =>
      by_cases hidle : s.inflight = none
      · exact ⟨1, by omega, run_wait_idle hidle hhost⟩
      · have hstep := step_wait_busy hidle hhost hturns
        obtain ⟨n, hn, t, hrun, hover⟩ := ih (h.step hstep) hhost rfl
        exact ⟨n + 1, by rw [List.length_cons]; omega, t, (core_run_succ n hstep).trans hrun, hover⟩

/-! ## The obligations -/

/-- Settles O52: by induction on the turns the host has left (`run_wait`). -/
theorem waitEnds : Obligations.WaitEnds := fun s rest h hhost => run_wait rest s.turns h hhost rfl

/-- Settles O1: a word decodes to a command exactly when it is the command's word, and to none exactly when it is no
command's. -/
theorem commandSelectedByWholeWord : Obligations.CommandSelectedByWholeWord := by
  refine ⟨fun v => decode_eq_command_iff v .modpow, fun v => decode_eq_command_iff v .precomputeRoots,
    fun v => decode_eq_command_iff v .nttTransform, fun v h1 h2 h3 => ?_⟩
  have hillegal : decode v = .illegalCommand := (decode_eq_illegal_iff v).mpr fun i => by
    cases i with
    | modpow => exact h1
    | precomputeRoots => exact h2
    | nttTransform => exact h3
  exact ⟨hillegal, fun s hidle => commandWrite_illegal hidle hillegal⟩

/-- Settles O2: the fields of each command's word are those of the opcode map, and `encode` inverts `decode`. -/
theorem decodeEncodeAgree : Obligations.DecodeEncodeAgree := by
  refine ⟨fun i => ?_, fun v i => eq_encode_of_decode⟩
  obtain ⟨-, -, hopcode, hreserved, hdecode⟩ := commandWord_statement i
  exact ⟨hdecode, hreserved, hopcode⟩

/-- Settles O3: six closed words, by evaluation. -/
theorem writtenWordsDecode : Obligations.WrittenWordsDecode := by
  unfold Obligations.WrittenWordsDecode
  decide

/-- Settles O4: no command's word has one of the three grounds (`encode_not_illegal`), so the word decodes to none. -/
theorem illegalWordRejected : Obligations.IllegalWordRejected := by
  intro s v hidle hground
  refine commandWrite_illegal hidle ((decode_eq_illegal_iff v).mpr ?_)
  rintro i rfl
  exact encode_not_illegal i hground

end Sys2Proof.Machine

/-! # The command protocol: acceptance, rejection, completion (40_command_protocol.md) -/

namespace Sys2Proof.Machine

/-! ## Validate (R106) -/

theorem validate_modpow_word (s : State) : validate s 0x01 = if s.mod < 2 then .invalidModulus else .none :=
  validate_encode s .modpow

/-- The checks on a transform command's word, in the spec's order. -/
theorem validate_transform_word {v : Nat} (hv : v = 0x02 ∨ v = 0x03) (s : State) :
    validate s v
      = if isPow2 s.len = false then .invalidLength
        else if s.cfg.nMax < s.len then .capacityExceeded
        else if s.mod < 2 then .invalidModulus
        else .none := by
  have hword : ∃ i, i ≠ .modpow ∧ v = encode i := by
    obtain rfl | rfl := hv
    · exact ⟨.precomputeRoots, by decide, rfl⟩
    · exact ⟨.nttTransform, by decide, rfl⟩
  obtain ⟨i, hi, rfl⟩ := hword
  rw [validate_encode, validateLength]
  by_cases hpow : isPow2 s.len = false
  · simp [hi, hpow]
  · by_cases hcap : s.cfg.nMax < s.len <;> simp [hi, hpow, hcap]

theorem validate_no_command {v : Nat} (h1 : v ≠ 0x01) (h2 : v ≠ 0x02) (h3 : v ≠ 0x03) (s : State) :
    validate s v = .illegalCommand :=
  validate_of_illegal (commandSelectedByWholeWord.2.2.2 v h1 h2 h3).1 s

/-- Settles O9: MODPOW's word, a transform command's word and any other word each have their checks; the conditions are
then those of the branches. -/
theorem validateChecksInOrder : Obligations.ValidateChecksInOrder := by
  intro s v
  by_cases h1 : v = 0x01
  · subst h1
    rw [validate_modpow_word]
    obtain hmod | hmod := Nat.lt_or_ge s.mod 2
    · simp [hmod]
    · simp [hmod, Nat.not_lt.mpr hmod]
  · by_cases h23 : v = 0x02 ∨ v = 0x03
    · have hword : ¬(v ≠ 0x01 ∧ v ≠ 0x02 ∧ v ≠ 0x03) := by omega
      rw [validate_transform_word h23, ← isPow2_iff, eq_false hword]
      by_cases hpow : isPow2 s.len = false
      · simp [h1, h23, hpow]
      · obtain hcap | hcap := Nat.lt_or_ge s.cfg.nMax s.len
        · simp [h1, h23, hpow, hcap]
        · obtain hmod | hmod := Nat.lt_or_ge s.mod 2
          · simp [h1, h23, hpow, hcap, hmod, Nat.not_lt.mpr hcap]
          · simp [h1, h23, hpow, hcap, hmod, Nat.not_lt.mpr hcap, Nat.not_lt.mpr hmod]
    · rw [not_or] at h23
      rw [validate_no_command h1 h23.1 h23.2]
      simp [h1, h23]

/-! ## A word written to CMD (R101 to R103) -/

/-- Settles O8: while busy the write is dropped; an idle block accepts the word or rejects it (`commandWrite_idle`), as
`Validate` says. -/
theorem commandWriteFollowsProtocol : Obligations.CommandWriteFollowsProtocol := by
  intro s v
  refine ⟨fun hbusy => commandWrite_busy hbusy v, fun hidle hcode => ?_, fun hidle hpass => ?_⟩
  · obtain ⟨i, rfl, hok, -⟩ | ⟨-, hw⟩ := commandWrite_idle hidle v
    · exact absurd ((validate_encode_eq_none_iff s i).mpr hok) hcode
    · exact hw
  · obtain ⟨i, hword, -, hw⟩ | ⟨hcode, -⟩ := commandWrite_idle hidle v
    · exact ⟨i, hword, hw⟩
    · exact absurd hpass hcode

/-- A rejection changes nothing that `Validate` reads (R103, R106). -/
theorem validate_reject (code : ErrCode) (s : State) (v : Nat) : validate (reject code s) v = validate s v := rfl

/-- Settles O11: the word was rejected, since an acceptance leaves the block busy; `Validate` gives the same code again
(`validate_reject`), and writing it a second time changes nothing. -/
theorem rejectedAgainTheSame : Obligations.RejectedAgainTheSame := by
  intro s t v hidle hw hidle'
  obtain ⟨i, -, -, haccept⟩ | ⟨hcode, hreject⟩ := commandWrite_idle hidle v
  · cases haccept.symm.trans hw
    simp at hidle'
  · cases hreject.symm.trans hw
    rw [← validate_reject (validate s v) s] at hcode
    exact (commandWriteFollowsProtocol _ v).2.1 hidle' hcode

theorem exec_accepts {i : Instr} {s : State} (hidle : s.inflight = none) (hok : operandsOk i s) :
    exec i s = .next (accept i s) := by
  rw [exec_eq, runCommand_idle hidle, present_eq, if_pos ((validate_encode_eq_none_iff s i).mpr hok)]

/-- Settles O10: `exec_accepts`; the events of a block that is busy before and after are those that write neither an
operand nor a result. -/
theorem acceptanceFixesOperands : Obligations.AcceptanceFixesOperands := by
  refine ⟨fun i s => exec_accepts, fun s t hbusy hstep hbusy' => ?_⟩
  cases stepEvent_of_step hstep with
  | silent | drop | statusWrite => simp
  | reset | complete => simp at hbusy'
  | store _ hidle | accept _ hidle | reject _ hidle => exact absurd hidle hbusy

/-! ## What a completion writes (R104, R107) -/

/-- A command in flight that answers a next state has completed. -/
theorem eq_finish_of_exec {i : Instr} {s t : State} (hi : s.inflight = some i) (h : exec i s = .next t) :
    t = finish (performOf i s) := by
  rw [exec_eq] at h
  obtain ⟨hidle, -⟩ | ⟨-, -, ht⟩ | ⟨j, hj, hne, -⟩ := runCommand_next h
  · cases hi.symm.trans hidle
  · exact ht
  · exact absurd (Option.some.inj (hj.symm.trans hi)) hne

/-- The transform's root outputs are the precompute's (R161, step 1). -/
@[simp] theorem performTransform_nbits (s : State) : (performTransform s).nbits = (performPrecompute s).nbits := by
  rw [performTransform_eq]

@[simp] theorem performTransform_baseRoot (s : State) :
    (performTransform s).baseRoot = (performPrecompute s).baseRoot := by
  rw [performTransform_eq]

@[simp] theorem performTransform_root (s : State) : (performTransform s).root = (performPrecompute s).root := by
  rw [performTransform_eq]

/-- Below LEN a transform writes what the network makes of SEQ below LEN and of the root table, which CFG, MOD, GEN and
LEN fix (R141, R161, R169). -/
theorem seqRead_performTransform_congr {s s' : State} (hcfg : s.cfg = s'.cfg) (hmod : s.mod = s'.mod)
    (hgen : s.gen = s'.gen) (hlen : s.len = s'.len) (hseq : ∀ j < s.len, seqRead s j = seqRead s' j) {j : Nat}
    (hj : j < s.len) : seqRead (performTransform s) j = seqRead (performTransform s') j := by
  have htake : seqTake (performPrecompute s) s.len = seqTake (performPrecompute s') s.len :=
    List.map_congr_left fun k hk => hseq k (List.mem_range.mp hk)
  have htable : rootTake (performPrecompute s) = rootTake (performPrecompute s') := by
    unfold rootTake rootRead
    simp [hcfg, hmod, hgen, hlen]
  rw [seqRead_performTransform, seqRead_performTransform, if_pos hj, if_pos (hlen ▸ hj), htake, htable, hmod, hlen]

/-- Settles O33: each completion is its command's work (`eq_finish_of_exec`), a function of the operands. -/
theorem outputsDependOnOperandsAlone : Obligations.OutputsDependOnOperandsAlone := by
  refine ⟨fun s s' t t' hi hi' hmod hbase hexp h h' => ?_, fun s s' t t' hi hi' hcfg hmod hgen hlen h h' => ?_,
    fun s s' t t' hi hi' hcfg hmod hgen hlen hseq h h' => ?_⟩
  · rw [eq_finish_of_exec hi h, eq_finish_of_exec hi' h']
    simp [performOf, hmod, hbase, hexp]
  · rw [eq_finish_of_exec hi h, eq_finish_of_exec hi' h']
    simp [performOf, hcfg, hmod, hgen, hlen]
  · rw [eq_finish_of_exec hi h, eq_finish_of_exec hi' h']
    refine ⟨?nbits, ?baseRoot, ?root, fun j => seqRead_performTransform_congr hcfg hmod hgen hlen hseq,
      fun j hj => ?above⟩
    case nbits | baseRoot | root => simp [performOf, hcfg, hmod, hgen, hlen]
    case above =>
      by_contra hne
      exact absurd (seqRead_performOf_of_ne hne).2 (Nat.not_lt.mpr hj)

/-! ## The completion comes (R104, R105; log 4) -/

/-- Settles O6: of the events `nextEvent_cases` lists, only the completion meets the hypotheses. -/
theorem stepCompletesCommandInFlight : Obligations.StepCompletesCommandInFlight := by
  intro s i hi hturn
  obtain ⟨hidle, -⟩ | ⟨op, rest, hidle, -⟩ | ⟨op, rest, later, -, hhost, hturns, -⟩ | ⟨j, hj, -, hev⟩ :=
    nextEvent_cases s
  · cases hi.symm.trans hidle
  · cases hi.symm.trans hidle
  · simp [hhost, hturns] at hturn
  · obtain rfl : i = j := Option.some.inj (hi.symm.trans hj)
    exact hev

/-- A host operation other than reset, while busy, neither fails nor ends the command in flight; it uses up no turn, and
lists again at most itself (R55, R85, R240, R241). -/
theorem hostEvent_busy {s : State} {op : HostOp} (hbusy : s.inflight ≠ none) (hop : op ≠ .reset) :
    ∃ t, hostEvent s op = .next t ∧ t.inflight = s.inflight ∧ t.turns = s.turns ∧
      ∀ o ∈ t.host, o = op ∨ o ∈ s.host := by
  cases op with
  | read a =>
    refine ⟨_, rfl, ?_⟩
    rw [hostRead_eq]
    exact ⟨rfl, rfl, fun o => .inr⟩
  | write a v =>
    by_cases hloc : locate s.cfg a = .cmd
    · exact ⟨_, (hostWrite_cmd hloc v).trans (commandWrite_busy hbusy _), rfl, rfl, fun o => .inr⟩
    · refine ⟨_, hostWrite_of_ne_cmd rfl hloc v, ?_⟩
      rw [storeWrite_busy hbusy]
      exact ⟨rfl, rfl, fun o => .inr⟩
  | wait =>
    refine ⟨_, rfl, ?_⟩
    rw [waitTurn_busy hbusy]
    exact ⟨rfl, rfl, fun o => List.mem_cons.mp⟩
  | reset => exact absurd rfl hop

/-- When the host does not move, one step completes the command in flight. -/
theorem run_completion {s : State} {i : Instr} (h : s.Inv) (hi : s.inflight = some i)
    (hturn : s.host = [] ∨ s.turns.headD false = false) :
    ∃ t, core.run 1 s = .next t ∧ t.inflight = none ∧ t.status.done = true :=
  ⟨_, core_run_succ 0 (step_completes hi (h.inFlightValid i hi) hturn), rfl, rfl⟩

/-- Each of the host's turns leaves the command in flight and no reset on the host's list; after them it completes. -/
theorem run_completes {i : Instr} (turns : List Bool) : ∀ {s : State}, s.Inv → s.inflight = some i →
    (∀ op ∈ s.host, op ≠ .reset) → s.turns = turns →
    ∃ n ≤ turns.length + 1, ∃ t, core.run n s = .next t ∧ t.inflight = none ∧ t.status.done = true := by
  induction turns with
  | nil =>
    intro s h hi _ hturns
    exact ⟨1, le_rfl, run_completion h hi (.inr (by rw [hturns]; rfl))⟩
  | cons hostMoves later ih =>
    intro s h hi hnoreset hturns
    cases hhost : s.host with
    | nil => exact ⟨1, by omega, run_completion h hi (.inl hhost)⟩
    | cons op rest =>
      rw [hhost, List.forall_mem_cons] at hnoreset
      cases hostMoves with
      | false => exact ⟨1, by omega, run_completion h hi (.inr (by rw [hturns]; rfl))⟩
      | true =>
        obtain ⟨u, hev, hi', hturns', hlist⟩ :=
          hostEvent_busy (s := { s with host := rest, turns := later }) (by simp [hi]) hnoreset.1
        have hstep : step s = .next u := (stepTakesHostOperations.2.2 s i op rest later hi hhost hturns).trans hev
        have hnoreset' : ∀ o ∈ u.host, o ≠ .reset := fun o ho =>
          (hlist o ho).elim (fun heq => heq ▸ hnoreset.1) (hnoreset.2 o)
        obtain ⟨n, hn, t, hrun, hdone⟩ := ih (h.step hstep) (hi'.trans hi) hnoreset' hturns'
        exact ⟨n + 1, by rw [List.length_cons]; omega, t, (core_run_succ n hstep).trans hrun, hdone⟩

/-- Settles O51: by induction on the turns the host has left (`run_completes`). -/
theorem acceptedCommandCompletes : Obligations.AcceptedCommandCompletes := by
  intro s h hbusy hnoreset
  obtain ⟨i, hi⟩ := Option.ne_none_iff_exists'.mp hbusy
  exact run_completes s.turns h hi hnoreset rfl

end Sys2Proof.Machine

/-! # Modular exponentiation: the function and the MODPOW command (41_modexp.md) -/

namespace Sys2Proof.Machine

/-! ## The function (R120 to R124) -/

/-- Settles O22: the loop's invariant is `modpowLoop_spec`, and its fuel covers the exponent (`modpow_eq_pow_mod`). -/
theorem modpowIsPowerModulo : Obligations.ModpowIsPowerModulo := fun b e _ hq => modpow_eq_pow_mod (by omega) b e

/-- Settles O23: the exact power is 1, whatever the base, and 1 lies below the modulus. -/
theorem modpowIdentityLaw : Obligations.ModpowIdentityLaw := fun b q hq => by
  rw [modpowIsPowerModulo b 0 q hq, pow_zero, Nat.mod_eq_of_lt hq]

/-- Settles O24: the result is a remainder (`modpow_lt`). -/
theorem modpowResultReduced : Obligations.ModpowResultReduced := fun b e _ hq => modpow_lt (by omega) b e

/-! ## When a command is rejected and when it stops (R101, R103, R126, R202; log 10) -/

/-- The rejecting counterpart of `exec_accepts`. -/
theorem exec_rejects {i : Instr} {s : State} (hidle : s.inflight = none) (hbad : ¬operandsOk i s) :
    exec i s = .next (reject (validate s (encode i)) s) := by
  rw [exec_eq, runCommand_idle hidle, present_eq, if_neg (mt (validate_encode_eq_none_iff s i).mp hbad)]

/-- `exec_completes` says what a completion does on validated operands; on others it stops. -/
theorem exec_faults {i : Instr} {s : State} (hi : s.inflight = some i) (hbad : ¬operandsOk i s) :
    exec i s = .fault .unvalidatedOperands := by
  have hv : validate s (encode i) ≠ .none := mt (validate_encode_eq_none_iff s i).mp hbad
  simp [exec_eq, runCommand, hi, hv]

theorem runCommand_ne_refused (i : Instr) (perform : State → State) (s : State) (r : Refusal) :
    runCommand i perform s ≠ .refused r := by
  unfold runCommand
  split
  · nofun
  · split_ifs <;> nofun

/-- Settles O16: `runCommand_fault` and `exec_faults` are the two directions, read through what `Validate` passes. -/
theorem completionFaultsOnlyUnvalidated : Obligations.CompletionFaultsOnlyUnvalidated := by
  refine fun s i => ⟨fun f hf => ?_, exec_faults, fun r => ?_⟩
  · rw [exec_eq] at hf
    obtain ⟨hi, hv⟩ := runCommand_fault hf
    exact ⟨hi, mt (validate_encode_eq_none_iff s i).mpr hv⟩
  · rw [exec_eq]
    exact runCommand_ne_refused i _ s r

/-! ## The MODPOW command (R121) -/

/-- Settles O12: `Validate` asks of MODPOW's word that the modulus be at least 2; acceptance and completion are
those of every command, and the value written is the exact power's remainder. -/
theorem modpowCommand : Obligations.ModpowCommand := by
  refine ⟨fun v => decode_eq_command_iff v .modpow, fun s hidle hmod => ?_,
    fun s hidle hmod => exec_accepts hidle hmod, fun s hi hmod => ?_⟩
  · have hcode : validate s (encode .modpow) = .invalidModulus := (validate_modpow_word s).trans (if_pos hmod)
    rw [exec_rejects (i := .modpow) hidle (Nat.not_le.mpr hmod), hcode]
    rfl
  · rw [← modpowIsPowerModulo s.base s.exp s.mod hmod]
    exact exec_completes hi hmod

/-! ## What a command leaves unchanged (R102 to R104, R121, R141) -/

/-- Everything a command can change: unless it completes, STATUS and INFLIGHT alone. -/
theorem exec_next_cases {i : Instr} {s t : State} (h : exec i s = .next t) :
    (s.inflight ≠ some i ∧ ∃ st fl, t = { s with status := st, inflight := fl }) ∨
    (s.inflight = some i ∧ t = finish (performOf i s)) := by
  rw [exec_eq] at h
  obtain ⟨hidle, rfl⟩ | ⟨hi, -, ht⟩ | ⟨j, hj, hne, rfl⟩ := runCommand_next h
  · refine .inl ⟨by simp [hidle], ?_⟩
    rw [present_eq]
    split_ifs
    · exact ⟨_, _, rfl⟩
    · exact ⟨_, _, rfl⟩
  · exact .inr ⟨hi, ht⟩
  · exact .inl ⟨by simp [hj, hne], _, _, rfl⟩

/-- Settles O17: a command that does not complete writes STATUS and INFLIGHT alone, and a completion its work besides
(`exec_next_cases`); neither work writes a cell of SEQ. -/
theorem registerCommandsFrame : Obligations.RegisterCommandsFrame := by
  intro s t
  refine ⟨fun h => ?modpow, fun h => ?precompute⟩
  case modpow | precompute =>
    obtain ⟨hi, st, fl, rfl⟩ | ⟨hi, rfl⟩ := exec_next_cases h
    · simp [seqRead]
    · simp [hi, performOf, seqRead]

end Sys2Proof.Machine

/-! # Roots of unity: the root table and the PRECOMPUTE_ROOTS command (42_roots.md) -/

namespace Sys2Proof.Machine

/-! ## The function RootTable (R140, R143) -/

/-- Settles O25: `log2` inverts the power of two; the other two components are R140's as they stand. -/
theorem rootTableValues : Obligations.RootTableValues := by
  intro g k q _
  refine ⟨by simp, rfl, ?_⟩
  rw [rootTable, log2_two_pow]

theorem rootTable_baseRoot_eq_baseRootOf {q : Nat} (hq : 0 < q) (g n : Nat) :
    (rootTable g n q).baseRoot = baseRootOf g n q := modpow_eq_pow_mod hq g (n - 1)

/-- Each entry is R140's power of the base root, in closed form (R122). -/
theorem rootTable_table_getElem? {g n q i : Nat} (hq : 0 < q) (hi : i < log2 n) :
    (rootTable g n q).table[i]? = some (rootEntryOf g n q i) := by
  simp [rootTable, hi, modpow_eq_pow_mod hq, rootEntryOf, baseRootOf]

/-- `2^0 = 1`, and the base root is already reduced. -/
theorem rootEntryOf_zero (g n q : Nat) : rootEntryOf g n q 0 = baseRootOf g n q := by
  rw [rootEntryOf, pow_zero, pow_one, baseRootOf, Nat.mod_mod]

/-- `base_root^(2^(i+1))` is the square of `base_root^(2^i)`, and a remainder may be taken before squaring. -/
theorem rootEntryOf_succ (g n q i : Nat) : rootEntryOf g n q (i + 1) = rootEntryOf g n q i ^ 2 % q := by
  rw [rootEntryOf, rootEntryOf, pow_succ, pow_mul, Nat.pow_mod]

/-- Settles O26: the entries in closed form (`rootTable_table_getElem?`) start with the base root and are squares each of
the one before (`rootEntryOf_zero`, `rootEntryOf_succ`). -/
theorem rootTableBySquaring : Obligations.RootTableBySquaring := by
  intro g k q hq
  have hpos : 0 < q := by omega
  have entry {i : Nat} (hi : i < k) : (rootTable g (2 ^ k) q).table[i]? = some (rootEntryOf g (2 ^ k) q i) :=
    rootTable_table_getElem? hpos (by rwa [log2_two_pow])
  refine ⟨fun hk => ?first, fun i x hi hx => ?next⟩
  case first => rw [entry hk, rootEntryOf_zero, rootTable_baseRoot_eq_baseRootOf hpos]
  case next =>
    obtain rfl : rootEntryOf g (2 ^ k) q i = x := Option.some.inj ((entry (by omega)).symm.trans hx)
    rw [entry hi, rootEntryOf_succ]

/-! ## The PRECOMPUTE_ROOTS command (R141) -/

/-- ROOT after the precompute: the table's entries in closed form, then zeros. -/
theorem rootEntries_rootTable {q : Nat} (hq : 0 < q) (p : Params) (g k : Nat) :
    rootEntries p (rootTable g (2 ^ k) q) = rootFileOf p g k q := by
  refine List.map_congr_left fun i _ => ?_
  rw [rootTable_nbits, log2_two_pow]
  by_cases hi : i < k
  · rw [if_pos hi, if_pos hi, List.getD_eq_getElem?_getD, rootTable_table_getElem? hq (by rwa [log2_two_pow]),
      Option.getD_some]
  · rw [if_neg hi, if_neg hi]

/-- The precompute of a length `2^k`, in closed form. -/
theorem performPrecompute_of_len_eq_two_pow {s : State} {k : Nat} (hq : 0 < s.mod) (hlen : s.len = 2 ^ k) :
    performPrecompute s =
      { s with
        nbits := k
        baseRoot := baseRootOf s.gen s.len s.mod
        root := rootFileOf s.cfg s.gen k s.mod } := by
  rw [performPrecompute, ← rootTable_baseRoot_eq_baseRootOf hq, ← rootEntries_rootTable hq, ← hlen, rootTable_nbits, hlen,
    log2_two_pow]

/-- An idle block rejects a command's word with whatever code `Validate` gives (R103). -/
theorem exec_rejects_with {i : Instr} {s : State} {code : ErrCode} (hidle : s.inflight = none) (hne : code ≠ .none)
    (hcode : validate s (encode i) = code) :
    exec i s = .next { s with status := ⟨false, true, s.status.accv, code⟩ } := by
  subst hcode
  exact exec_rejects hidle (mt (validate_encode_eq_none_iff s i).mpr hne)

/-- Settles O13: O9 (`validateChecksInOrder`) gives the code of each rejection; acceptance and completion are those of
every command, and the values written are `performPrecompute_of_len_eq_two_pow`'s. -/
theorem precomputeRootsCommand : Obligations.PrecomputeRootsCommand := by
  refine ⟨fun v => decode_eq_command_iff v .precomputeRoots, fun s hidle hlen => ?length,
    fun s k hidle hlen hk => ?capacity, fun s k hidle hlen hk hmod => ?modulus,
    fun s k hidle hlen hk hmod => exec_accepts hidle ⟨hmod, k, hk, hlen⟩, fun s k hi hlen hk hmod => ?completion⟩
  case completion =>
    rw [exec_completes hi ⟨hmod, k, hk, hlen⟩, performOf, performPrecompute_of_len_eq_two_pow (by omega) hlen]
    rfl
  all_goals obtain ⟨-, hlength, hcapacity, hmodulus, -⟩ := validateChecksInOrder s (encode .precomputeRoots)
  case length => exact exec_rejects_with hidle nofun (hlength.mpr ⟨.inl rfl, hlen⟩)
  case capacity =>
    have hcap : s.cfg.nMax < s.len := by rwa [hlen, ← Nat.not_le, s.cfg.two_pow_le_nMax, Nat.not_le]
    exact exec_rejects_with hidle nofun (hcapacity.mpr ⟨.inl rfl, ⟨k, hlen⟩, hcap⟩)
  case modulus =>
    have hcap : s.len ≤ s.cfg.nMax := by rwa [hlen, s.cfg.two_pow_le_nMax]
    exact exec_rejects_with hidle nofun (hmodulus.mpr ⟨hmod, .inr ⟨.inl rfl, ⟨k, hlen⟩, hcap⟩⟩)

end Sys2Proof.Machine

/-! # The transform: the butterfly network and the NTT_TRANSFORM command (43_ntt.md) -/

namespace Sys2Proof.Machine

/-! ## One butterfly and its twiddle (R162, R164) -/

/-- Settles O27: both outputs are remainders by `reduce`, which keeps the exact integer's residue (`natCast_reduce`). -/
theorem butterflyIsExact : Obligations.ButterflyIsExact := by
  intro a b tw q hq
  have hpos : 0 < q := by omega
  simp only [butterfly]
  exact ⟨natCast_reduce hpos _, natCast_reduce hpos _⟩

/-- With stride 1 every pair offset is 0, and so every twiddle 1. -/
theorem stage_one_root_irrelevant {q : Nat} (hq : 2 ≤ q) (res : List Nat) (n root root' : Nat) :
    stage n q root 1 res = stage n q root' 1 res := by
  refine List.foldl_ext _ _ _ fun buf pair hpair => ?_
  have hoffset : pair.2 = 0 := by
    simp only [stagePairs, List.range_one, List.map_singleton, List.mem_flatMap, List.mem_singleton] at hpair
    obtain ⟨block, -, rfl⟩ := hpair
    rfl
  simp only [butterflyAt, hoffset, modpowIdentityLaw _ q hq]

/-- Settles O29: the loop's twiddle is the exact power's remainder (`modpow_eq_pow_mod`), 1 at offset 0 (O23). -/
theorem twiddlesAndFirstStage : Obligations.TwiddlesAndFirstStage := by
  refine fun q hq => ⟨fun res root stride start j => ?_, fun root => modpowIdentityLaw root q hq,
    stage_one_root_irrelevant hq⟩
  rw [butterflyAt, modpow_eq_pow_mod (by omega)]

/-! ## The network as a sequence of stages (R160, R163) -/

/-- The first `s` stages of the network of length `2^k`: strides `1, 2, ..., 2^(s-1)`, roots from the table's last entry
downwards. -/
def firstStages (table : List Nat) (k q s : Nat) (res : List Nat) : List Nat :=
  (List.range s).foldl (fun buf t => stage (2 ^ k) q (table.getD (k - 1 - t) 0) (2 ^ t) buf) res

@[simp] theorem firstStages_zero (table : List Nat) (k q : Nat) (res : List Nat) :
    firstStages table k q 0 res = res := rfl

theorem firstStages_succ (table : List Nat) (k q s : Nat) (res : List Nat) :
    firstStages table k q (s + 1) res
      = stage (2 ^ k) q (table.getD (k - 1 - s) 0) (2 ^ s) (firstStages table k q s res) := by
  rw [firstStages, List.range_succ, List.foldl_concat, firstStages]

@[simp] theorem firstStages_length (table : List Nat) (k q s : Nat) (res : List Nat) :
    (firstStages table k q s res).length = res.length := by
  induction s with
  | zero => rfl
  | succ s ih => rw [firstStages_succ, stage_length, ih]

/-- The loop from stride `2^a` on, with `left` stages to go, as a fold over these stages. -/
theorem stageLoop_eq_foldl (table : List Nat) (q left a : Nat) (res : List Nat) :
    stageLoop table (2 ^ (a + left)) q left (2 ^ a) res
      = (List.range left).foldl
          (fun buf s => stage (2 ^ (a + left)) q (table.getD (left - 1 - s) 0) (2 ^ (a + s)) buf) res := by
  induction left generalizing a res with
  | zero => rfl
  | succ left ih =>
    have hstride : 2 ^ a < 2 ^ (a + (left + 1)) := Nat.pow_lt_pow_right (by decide) (by omega)
    rw [stageLoop, if_pos hstride, ← pow_succ', show a + (left + 1) = a + 1 + left by omega, ih,
      List.range_succ_eq_map, List.foldl_cons, List.foldl_map]
    refine List.foldl_ext _ _ _ fun buf s _ => ?_
    rw [show left - 1 - s = left + 1 - 1 - s.succ by omega, show a + 1 + s = a + s.succ by omega]

theorem butterflyNetwork_eq_firstStages (table : List Nat) (k q : Nat) (res : List Nat) :
    butterflyNetwork res table (2 ^ k) q = firstStages table k q k res := by
  simpa only [butterflyNetwork, firstStages, log2_two_pow, zero_add, pow_zero] using
    stageLoop_eq_foldl table q k 0 res

/-- Settles O28: the stage loop is the fold over its stages (`stageLoop_eq_foldl`), whatever the table. -/
theorem stagesUseRootsDownwards : Obligations.StagesUseRootsDownwards := fun res table k q _ =>
  butterflyNetwork_eq_firstStages table k q res

/-! ## The order of a stage's butterflies (R165) -/

theorem apart_symm (stride : Nat) : Std.Symm (Apart stride) where
  symm := fun _ _ ⟨hne, hleft, hright⟩ => ⟨hne.symm, hright.symm, hleft.symm⟩

/-- A butterfly after one that shares no entry with it reads what stood before both. -/
theorem butterflyAt_of_apart {stride : Nat} {a b : Nat × Nat} (h : Apart stride a b) (q root : Nat) (res : List Nat) :
    butterflyAt q root stride (butterflyAt q root stride res a) b
      = let out := butterfly (res.getD (b.1 + b.2) 0) (res.getD (b.1 + b.2 + stride) 0) (modpow root b.2 q) q
        ((butterflyAt q root stride res a).set (b.1 + b.2) out.1).set (b.1 + b.2 + stride) out.2 := by
  obtain ⟨hne, hleft, hright⟩ := h
  rw [butterflyAt, butterflyAt_getD_other hne.symm hright.symm,
    butterflyAt_getD_other hleft.symm fun heq => hne (Nat.add_right_cancel heq.symm)]

/-- Butterflies that share no entry commute: neither writes what the other reads or writes. -/
theorem butterflyAt_comm {stride : Nat} {a b : Nat × Nat} (h : Apart stride a b) (q root : Nat) (res : List Nat) :
    butterflyAt q root stride (butterflyAt q root stride res a) b
      = butterflyAt q root stride (butterflyAt q root stride res b) a := by
  rw [butterflyAt_of_apart h, butterflyAt_of_apart ((apart_symm stride).symm _ _ h)]
  obtain ⟨hne, hleft, hright⟩ := h
  have hupper : a.1 + a.2 + stride ≠ b.1 + b.2 + stride := fun heq => hne (Nat.add_right_cancel heq)
  simp only [butterflyAt]
  rw [List.set_comm _ _ hright, List.set_comm _ _ hupper, List.set_comm _ _ hne, List.set_comm _ _ hleft]

theorem foldl_butterflyAt_perm {stride : Nat} {order pairs : List (Nat × Nat)} (hperm : order.Perm pairs)
    (hpairs : pairs.Pairwise (Apart stride)) (q root : Nat) (res : List Nat) :
    order.foldl (butterflyAt q root stride) res = pairs.foldl (butterflyAt q root stride) res := by
  have := apart_symm stride
  refine (hperm.symm.foldl_eq' (fun a ha b hb buf => ?_) res).symm
  by_cases hab : a = b
  · rw [hab]
  · exact butterflyAt_comm (hpairs.forall ha hb hab) q root buf

/-- Settles O30: within a stage the butterflies are pairwise apart (`stagePairs_apart`), so they may be permuted. -/
theorem butterflyOrderIrrelevant : Obligations.ButterflyOrderIrrelevant := by
  intro res table k q order horder
  rw [butterflyNetwork_eq_firstStages, firstStages]
  refine List.foldl_ext _ _ _ fun buf s hs => ?_
  exact foldl_butterflyAt_perm (horder s (List.mem_range.mp hs)) (stagePairs_apart (Nat.two_pow_pos s)) q _ buf

/-! ## The last stage writes every entry (R167) -/

/-- The network's last stage is one block, whose butterflies write remainders to both halves. -/
theorem butterflyNetwork_getD_lt {k q j : Nat} (hq : 0 < q) (hk : 1 ≤ k) {res : List Nat} (hlen : res.length = 2 ^ k)
    (table : List Nat) (hj : j < 2 ^ k) : (butterflyNetwork res table (2 ^ k) q).getD j 0 < q := by
  obtain ⟨s, rfl⟩ : ∃ s, k = s + 1 := ⟨k - 1, by omega⟩
  rw [butterflyNetwork_eq_firstStages, firstStages_succ]
  rw [pow_succ'] at hj
  have hblock : 0 < 2 ^ (s + 1) / (2 * 2 ^ s) := by simp [← pow_succ']
  have hhalves {i : Nat} (hi : i < 2 ^ s) := stage_getD (q := q) (root := table.getD (s + 1 - 1 - s) 0) hblock hi
    ((firstStages_length table (s + 1) q s res).trans hlen)
  simp only [zero_mul, zero_add] at hhalves
  rcases Nat.lt_or_ge j (2 ^ s) with hlow | hhigh
  · rw [(hhalves hlow).1]
    exact (butterfly_lt hq _ _ _).1
  · obtain ⟨i, rfl⟩ : ∃ i, j = i + 2 ^ s := ⟨j - 2 ^ s, by omega⟩
    rw [(hhalves (by omega)).2]
    exact (butterfly_lt hq _ _ _).2

/-! ## The discrete Fourier transform of a block (R170) -/

section Dft

variable {R : Type} [CommRing R]

/-- The transform of the `2^s` entries of `x`, taken in bit-reversed order, with root `r`, at index `j`: the sum of R170
before its reduction. -/
def blockDft (x : Nat → R) (s : Nat) (r : R) (j : Nat) : R :=
  ∑ m ∈ Finset.range (2 ^ s), x (bitReverse s m) * r ^ (m * j)

theorem natCast_reversedDft (input : Nat → Nat) (k w q j : Nat) :
    (reversedDft input k w q j : ZMod q) = blockDft (fun i => (input i : ZMod q)) k w j := by
  rw [reversedDft, ZMod.natCast_mod, Nat.cast_list_sum, List.map_map, blockDft]
  simp only [← Nat.cast_pow, ← Nat.cast_mul]
  rfl

@[simp] theorem blockDft_zero (x : Nat → R) (r : R) (j : Nat) : blockDft x 0 r j = x 0 := by
  simp [blockDft, bitReverse]

theorem bitReverse_even (s m : Nat) : bitReverse (s + 1) (2 * m) = bitReverse s m := by
  simp [bitReverse]

theorem bitReverse_odd (s m : Nat) : bitReverse (s + 1) (2 * m + 1) = 2 ^ s + bitReverse s m := by
  rw [bitReverse, show (2 * m + 1) % 2 = 1 by omega, show (2 * m + 1) / 2 = m by omega, one_mul]

theorem sum_range_two_mul (f : Nat → R) (n : Nat) :
    ∑ i ∈ Finset.range (2 * n), f i
      = ∑ i ∈ Finset.range n, f (2 * i) + ∑ i ∈ Finset.range n, f (2 * i + 1) := by
  induction n with
  | zero => simp
  | succ n ih =>
    rw [Nat.mul_succ, Finset.sum_range_succ, Finset.sum_range_succ, ih, Finset.sum_range_succ, Finset.sum_range_succ]
    ring

/-- Decimation in time: the even terms are the transform of the lower half, the odd ones `r^j` times the
upper's. -/
theorem blockDft_succ (x : Nat → R) (s : Nat) (r : R) (j : Nat) :
    blockDft x (s + 1) r j
      = blockDft x s (r ^ 2) j + r ^ j * blockDft (fun i => x (2 ^ s + i)) s (r ^ 2) j := by
  simp only [blockDft, pow_succ' 2 s, sum_range_two_mul, bitReverse_even, bitReverse_odd, Finset.mul_sum]
  congr 1
  · refine Finset.sum_congr rfl fun m _ => ?_
    ring
  · refine Finset.sum_congr rfl fun m _ => ?_
    ring

theorem bitReverse_lt (s m : Nat) : bitReverse s m < 2 ^ s := by
  induction s generalizing m with
  | zero => simp [bitReverse]
  | succ s ih =>
    have hrest := ih (m / 2)
    have htop : m % 2 * 2 ^ s ≤ 1 * 2 ^ s := Nat.mul_le_mul_right _ (by omega)
    rw [bitReverse, pow_succ]
    omega

/-- The transform reads the first `2^s` entries alone. -/
theorem blockDft_congr {x y : Nat → R} {s : Nat} (h : ∀ i < 2 ^ s, x i = y i) (r : R) (j : Nat) :
    blockDft x s r j = blockDft y s r j :=
  Finset.sum_congr rfl fun m _ => by rw [h _ (bitReverse_lt s m)]

/-- A root of order dividing `2^s` makes the transform periodic in its index. -/
theorem blockDft_add_two_pow {s : Nat} {r : R} (hr : r ^ 2 ^ s = 1) (x : Nat → R) (j : Nat) :
    blockDft x s r (j + 2 ^ s) = blockDft x s r j := by
  refine Finset.sum_congr rfl fun m _ => ?_
  rw [mul_add, pow_add, mul_comm m (2 ^ s), pow_mul r (2 ^ s), hr, one_pow, mul_one]

/-- The upper half of the outputs, when the root's power at the half is -1. -/
theorem blockDft_succ_add_two_pow {s : Nat} {r : R} (hr : r ^ 2 ^ s = -1) (x : Nat → R) (j : Nat) :
    blockDft x (s + 1) r (j + 2 ^ s)
      = blockDft x s (r ^ 2) j - r ^ j * blockDft (fun i => x (2 ^ s + i)) s (r ^ 2) j := by
  have hperiod : (r ^ 2) ^ 2 ^ s = 1 := by rw [← pow_mul, mul_comm, pow_mul, hr, neg_one_sq]
  rw [blockDft_succ, blockDft_add_two_pow hperiod, blockDft_add_two_pow hperiod, pow_add, hr]
  ring

end Dft

/-! ## The network computes the transform (R170) -/

theorem natCast_reduce_zmod {q : Nat} (hq : 0 < q) (x : Int) : (reduce x q : ZMod q) = x := by
  rw [← Int.cast_natCast, natCast_reduce hq, ZMod.intCast_mod]

/-- A butterfly modulo `q` (R162): the sum and the difference. -/
theorem natCast_butterfly {q : Nat} (hq : 0 < q) (a b tw : Nat) :
    ((butterfly a b tw q).1 : ZMod q) = a + tw * b ∧ ((butterfly a b tw q).2 : ZMod q) = a - tw * b := by
  simp [butterfly, natCast_reduce_zmod hq]

theorem natCast_modpow {q : Nat} (hq : 0 < q) (b e : Nat) : (modpow b e q : ZMod q) = (b : ZMod q) ^ e := by
  rw [modpow_eq_pow_mod hq, ZMod.natCast_mod, Nat.cast_pow]

/-- Modulo `q`, every aligned block of `2^s` entries of `buf` holds the transform, with root `r`, of the same entries of
`x`. -/
def BlocksAreDft (k s : Nat) {q : Nat} (x : Nat → ZMod q) (r : ZMod q) (buf : List Nat) : Prop :=
  ∀ b < 2 ^ (k - s), ∀ j < 2 ^ s,
    (buf.getD (b * 2 ^ s + j) 0 : ZMod q) = blockDft (fun i => x (b * 2 ^ s + i)) s r j

/-- Single entries are their own transforms. -/
theorem blocksAreDft_zero {k q : Nat} (r : ZMod q) (buf : List Nat) :
    BlocksAreDft k 0 (fun i => (buf.getD i 0 : ZMod q)) r buf := by
  intro b _ j hj
  obtain rfl : j = 0 := by simpa using hj
  rw [blockDft_zero]

/-- One stage joins the blocks in pairs (R160): decimation in time, with twiddles the powers of the stage's root. -/
theorem blocksAreDft_stage {k s q root : Nat} (hq : 0 < q) (hs : s < k) {x : Nat → ZMod q} {buf : List Nat}
    (hlen : buf.length = 2 ^ k) (hroot : (root : ZMod q) ^ 2 ^ s = -1)
    (h : BlocksAreDft k s x ((root : ZMod q) ^ 2) buf) :
    BlocksAreDft k (s + 1) x (root : ZMod q) (stage (2 ^ k) q root (2 ^ s) buf) := by
  intro b hb j hj
  have hblock : b < 2 ^ k / (2 * 2 ^ s) := by rwa [← pow_succ', Nat.pow_div hs (by decide)]
  have hhalf : 2 ^ (k - s) = 2 * 2 ^ (k - (s + 1)) := by rw [← pow_succ']; congr 1; omega
  rw [pow_succ'] at hj ⊢
  have hjoin {i : Nat} (hi : i < 2 ^ s) := stage_getD (q := q) (root := root) hblock hi hlen
  have hlow {i : Nat} (hi : i < 2 ^ s) : (buf.getD (b * (2 * 2 ^ s) + i) 0 : ZMod q)
      = blockDft (fun m => x (b * (2 * 2 ^ s) + m)) s ((root : ZMod q) ^ 2) i := by
    simpa only [show 2 * b * 2 ^ s = b * (2 * 2 ^ s) by ring] using h (2 * b) (by omega) i hi
  have hhigh {i : Nat} (hi : i < 2 ^ s) : (buf.getD (b * (2 * 2 ^ s) + i + 2 ^ s) 0 : ZMod q)
      = blockDft (fun m => x (b * (2 * 2 ^ s) + (2 ^ s + m))) s ((root : ZMod q) ^ 2) i := by
    simpa only [show (2 * b + 1) * 2 ^ s = b * (2 * 2 ^ s) + 2 ^ s by ring, add_assoc, add_comm i] using
      h (2 * b + 1) (by omega) i hi
  rcases Nat.lt_or_ge j (2 ^ s) with hi | hge
  · rw [(hjoin hi).1, (natCast_butterfly hq _ _ _).1, natCast_modpow hq, hlow hi, hhigh hi, blockDft_succ]
  · obtain ⟨i, rfl⟩ : ∃ i, j = i + 2 ^ s := ⟨j - 2 ^ s, by omega⟩
    have hi : i < 2 ^ s := by omega
    rw [← add_assoc, (hjoin hi).2, (natCast_butterfly hq _ _ _).2, natCast_modpow hq, hlow hi, hhigh hi,
      blockDft_succ_add_two_pow hroot]

/-- After the first `s` stages the blocks are those of `2^s` entries, with root `w^(2^(k-s))`. -/
theorem blocksAreDft_firstStages {k q : Nat} (hq : 0 < q) {table res : List Nat} {w : ZMod q}
    (hlen : res.length = 2 ^ k) (htable : ∀ i < k, (table.getD i 0 : ZMod q) = w ^ 2 ^ i)
    (hhalf : w ^ 2 ^ (k - 1) = -1) :
    ∀ s ≤ k, BlocksAreDft k s (fun i => (res.getD i 0 : ZMod q)) (w ^ 2 ^ (k - s)) (firstStages table k q s res)
  | 0, _ => blocksAreDft_zero _ res
  | s + 1, hs => by
    have hroot := htable (k - 1 - s) (by omega)
    have hneg : (table.getD (k - 1 - s) 0 : ZMod q) ^ 2 ^ s = -1 := by
      rw [hroot, ← pow_mul, Nat.pow_sub_mul_pow 2 (by omega), hhalf]
    have hsquare : (table.getD (k - 1 - s) 0 : ZMod q) ^ 2 = w ^ 2 ^ (k - s) := by
      rw [hroot, ← pow_mul, ← pow_succ, show k - 1 - s + 1 = k - s by omega]
    have h := blocksAreDft_firstStages hq hlen htable hhalf s (by omega)
    rw [← hsquare] at h
    rw [firstStages_succ, show k - (s + 1) = k - 1 - s by omega, ← hroot]
    exact blocksAreDft_stage hq hs ((firstStages_length ..).trans hlen) hneg h

/-- R170 for the network: with the whole buffer one block, its output is the transform of its input. -/
theorem natCast_butterflyNetwork {k q j : Nat} (hq : 0 < q) {table res : List Nat} {w : ZMod q}
    (hlen : res.length = 2 ^ k) (htable : ∀ i < k, (table.getD i 0 : ZMod q) = w ^ 2 ^ i)
    (hhalf : w ^ 2 ^ (k - 1) = -1) (hj : j < 2 ^ k) :
    ((butterflyNetwork res table (2 ^ k) q).getD j 0 : ZMod q)
      = blockDft (fun i => (res.getD i 0 : ZMod q)) k w j := by
  have h := blocksAreDft_firstStages hq hlen htable hhalf k le_rfl 0 (Nat.two_pow_pos _) j hj
  simpa only [zero_mul, zero_add, Nat.sub_self, pow_zero, pow_one, butterflyNetwork_eq_firstStages] using h

/-- The condition of R170 in `ZMod q`. -/
theorem natCast_pow_eq_neg_one {q w e : Nat} (hq : 0 < q) (h : w ^ e % q = q - 1) : (w : ZMod q) ^ e = -1 := by
  rw [← Nat.cast_pow, ← ZMod.natCast_mod, h, Nat.cast_pred hq, ZMod.natCast_self, zero_sub]

/-- R170 for the network over the natural numbers: both sides lie below `q` and agree modulo `q`. -/
theorem butterflyNetwork_getD_eq_reversedDft {k q w j : Nat} (hq : 0 < q) (hk : 1 ≤ k)
    (hw : w ^ 2 ^ (k - 1) % q = q - 1) (input : Nat → Nat) (hj : j < 2 ^ k) :
    (butterflyNetwork ((List.range (2 ^ k)).map input) ((List.range k).map fun i => w ^ 2 ^ i % q) (2 ^ k) q).getD j 0
      = reversedDft input k w q j := by
  have hlen : ((List.range (2 ^ k)).map input).length = 2 ^ k := by simp
  have htable : ∀ i < k, (((List.range k).map fun i => w ^ 2 ^ i % q).getD i 0 : ZMod q) = (w : ZMod q) ^ 2 ^ i :=
    fun i hi => by simp [hi]
  have hinput : ∀ i < 2 ^ k, (((List.range (2 ^ k)).map input).getD i 0 : ZMod q) = (input i : ZMod q) :=
    fun i hi => by simp [hi]
  refine Nat.ModEq.eq_of_lt_of_lt ((ZMod.natCast_eq_natCast_iff _ _ q).mp ?_)
    (butterflyNetwork_getD_lt hq hk hlen _ hj) (Nat.mod_lt _ hq)
  rw [natCast_butterflyNetwork hq hlen htable (natCast_pow_eq_neg_one hq hw) hj, natCast_reversedDft]
  exact blockDft_congr hinput _ j

/-! ## What a transform leaves in the state (R161) -/

/-- What SEQ reads does not depend on STATUS and INFLIGHT. -/
@[simp] theorem seqRead_finish (s : State) (j : Nat) : seqRead (finish s) j = seqRead s j := rfl

/-- A transform of length `2^k`, in closed form but for SEQ. -/
theorem performTransform_of_len_eq_two_pow {s : State} {k : Nat} (hq : 0 < s.mod) (hlen : s.len = 2 ^ k) :
    performTransform s =
      { s with
        nbits := k
        baseRoot := baseRootOf s.gen s.len s.mod
        root := rootFileOf s.cfg s.gen k s.mod
        seq := (performTransform s).seq } := by
  rw [performTransform_eq, performPrecompute_of_len_eq_two_pow hq hlen]

/-- The table the butterflies read is that of R140: ROOT holds all of it. -/
theorem rootTake_performPrecompute {s : State} {k : Nat} (hq : 0 < s.mod) (hlen : s.len = 2 ^ k)
    (hk : k ≤ s.cfg.logNMax) :
    rootTake (performPrecompute s) = (List.range k).map (rootEntryOf s.gen s.len s.mod) := by
  rw [performPrecompute_of_len_eq_two_pow hq hlen, rootTake]
  refine List.map_congr_left fun i hi => ?_
  have hi : i < k := List.mem_range.mp hi
  have hcap : i < s.cfg.logNMax := by omega
  simp [rootRead, rootFileOf, hcap, hi, hlen]

/-- SEQ below LEN after a transform: R160's network over the entries before it and the table in closed form. -/
theorem seqRead_performTransform_below {s : State} {k j : Nat} (hq : 0 < s.mod) (hlen : s.len = 2 ^ k)
    (hk : k ≤ s.cfg.logNMax) (hj : j < s.len) :
    seqRead (performTransform s) j
      = (butterflyNetwork (seqTake s s.len) ((List.range k).map (rootEntryOf s.gen s.len s.mod)) s.len
          s.mod).getD j 0 := by
  rw [seqRead_performTransform, if_pos hj, rootTake_performPrecompute hq hlen hk]
  rfl

theorem seqRead_performTransform_above {s : State} {j : Nat} (hj : s.len ≤ j) :
    seqRead (performTransform s) j = seqRead s j := by
  rw [seqRead_performTransform, if_neg (Nat.not_lt.mpr hj)]

/-! ## The NTT_TRANSFORM command (R161, R166, R167, R169, R170) -/

/-- The rejections of NTT_TRANSFORM are those of PRECOMPUTE_ROOTS: `Validate` makes the same checks (R106). -/
theorem exec_nttTransform_of_rejected {s : State} (hidle : s.inflight = none) (hbad : ¬operandsOk .nttTransform s) :
    exec .nttTransform s = exec .precomputeRoots s := by
  have hcode : validate s (encode .nttTransform) = validate s (encode .precomputeRoots) := by
    simp [validate_encode]
  rw [exec_rejects hidle hbad, exec_rejects (i := .precomputeRoots) hidle hbad, hcode]

/-- Settles O14: the rejections are O13's (`exec_nttTransform_of_rejected`), acceptance and completion are those of
every command, and what the completion writes is `performTransform_of_len_eq_two_pow` and `seqRead_performTransform_below`. -/
theorem nttTransformCommand : Obligations.NttTransformCommand := by
  obtain ⟨-, hlength, hcapacity, hmodulus, -⟩ := precomputeRootsCommand
  refine ⟨fun v => decode_eq_command_iff v .nttTransform, fun s hidle hlen => ?length,
    fun s k hidle hlen hk => ?capacity, fun s k hidle hlen hk hmod => ?modulus,
    fun s k hidle hlen hk hmod => exec_accepts hidle ⟨hmod, k, hk, hlen⟩, fun s k hi hlen hk hmod => ?completion⟩
  case length =>
    rw [exec_nttTransform_of_rejected hidle fun ⟨_, k, _, hk⟩ => hlen ⟨k, hk⟩]
    exact hlength s hidle hlen
  case capacity =>
    have hbad : ¬operandsOk .nttTransform s := by
      rintro ⟨-, l, hl, hlen'⟩
      have hkl : k = l := Nat.pow_right_injective le_rfl (hlen.symm.trans hlen')
      omega
    rw [exec_nttTransform_of_rejected hidle hbad]
    exact hcapacity s k hidle hlen hk
  case modulus =>
    rw [exec_nttTransform_of_rejected hidle fun ⟨hmod', _⟩ => absurd hmod (Nat.not_lt.mpr hmod')]
    exact hmodulus s k hidle hlen hk hmod
  case completion =>
    have hq : 0 < s.mod := by omega
    refine ⟨(performTransform s).seq, _, exec_completes hi ⟨hmod, k, hk, hlen⟩, ?_,
      fun j hj => seqRead_performTransform_below hq hlen hk hj, fun j hj => seqRead_performTransform_above hj⟩
    rw [performOf, performTransform_of_len_eq_two_pow hq hlen]
    rfl

@[simp] theorem performOf_host (i : Instr) (s : State) : (performOf i s).host = s.host := by rw [performOf_eq]
@[simp] theorem performOf_turns (i : Instr) (s : State) : (performOf i s).turns = s.turns := by rw [performOf_eq]
@[simp] theorem performOf_rdata (i : Instr) (s : State) : (performOf i s).rdata = s.rdata := by rw [performOf_eq]
@[simp] theorem performOf_resets (i : Instr) (s : State) : (performOf i s).resets = s.resets := by rw [performOf_eq]
@[simp] theorem performOf_draws (i : Instr) (s : State) : (performOf i s).draws = s.draws := by rw [performOf_eq]

/-- Settles O18: a command that does not complete writes STATUS and INFLIGHT alone (`exec_next_cases`), and a transform
its outputs and SEQ below LEN besides. -/
theorem transformFrame : Obligations.TransformFrame := by
  intro s t h
  obtain ⟨hi, st, fl, rfl⟩ | ⟨hi, rfl⟩ := exec_next_cases h
  · simp [seqRead]
  · have habove : ∀ j, s.len ≤ j → seqRead (performOf .nttTransform s) j = seqRead s j := fun j =>
      seqRead_performTransform_above
    simpa [hi, performOf_result_of_ne] using habove

/-- Settles O31: with LEN at least 2 there is a last stage, and it writes remainders alone
(`butterflyNetwork_getD_lt`). -/
theorem transformOutputReduced : Obligations.TransformOutputReduced := by
  intro s k hi hlen hpos hk hmod
  have hq : 0 < s.mod := by omega
  refine ⟨_, exec_completes hi ⟨hmod, k, hk, hlen⟩, fun j hj => ?_⟩
  rw [seqRead_finish, performOf, seqRead_performTransform_below hq hlen hk hj, hlen]
  exact butterflyNetwork_getD_lt hq hpos (seqTake_length _ _) _ (hlen ▸ hj)

/-- Settles O32: O14 at `k = 0`, where the network has no stage and the table no entry. -/
theorem lengthOneTransformIsIdentity : Obligations.LengthOneTransformIsIdentity := by
  obtain ⟨-, -, -, hmodulus, -, hcompletes⟩ := nttTransformCommand
  refine ⟨fun s hi hlen hmod => ?_, fun s hidle hlen hmod => hmodulus s 0 hidle hlen (Nat.zero_le _) hmod⟩
  obtain ⟨cells, t, hexec, ht, hbelow, habove⟩ := hcompletes s 0 hi hlen (Nat.zero_le _) hmod
  refine ⟨t, hexec, fun j => ?_, ?_⟩
  · rcases Nat.lt_or_ge j s.len with hj | hj
    · obtain rfl : j = 0 := by omega
      rw [hbelow 0 hj, hlen, ← pow_zero 2, butterflyNetwork_eq_firstStages, firstStages_zero]
      rfl
    · exact habove j hj
  · subst ht
    simp [baseRootOf, rootFileOf, hlen, Nat.mod_eq_of_lt hmod]

/-- Settles O34: the network's theorem (`butterflyNetwork_getD_eq_reversedDft`), for the entries SEQ held and R140's
table. -/
theorem transformIsBitReversedDft : Obligations.TransformIsBitReversedDft := by
  intro s k hi hlen hpos hk hmod hcond
  have hq : 0 < s.mod := by omega
  refine ⟨_, exec_completes hi ⟨hmod, k, hk, hlen⟩, fun j hj => ?_⟩
  have hw : baseRootOf s.gen s.len s.mod ^ 2 ^ (k - 1) % s.mod = s.mod - 1 := by
    rwa [show 2 ^ (k - 1) = s.len / 2 by rw [hlen, ← Nat.pow_div hpos two_pos, pow_one]]
  rw [seqRead_finish, performOf, seqRead_performTransform_below hq hlen hk hj,
    ← butterflyNetwork_getD_eq_reversedDft hq hpos hw (seqRead s) (hlen ▸ hj), seqTake, ← hlen]
  rfl

end Sys2Proof.Machine

/-! # Exceptions: no event of a reachable state fails (60_exceptions.md) -/

namespace Sys2Proof.Machine

/-! ## The host's operations fail in no state (R55, R56, R101) -/

/-- A word written to CMD is dropped, accepted or rejected. -/
theorem commandWrite_exists_next (v : Nat) (s : State) : ∃ t, commandWrite v s = .next t := by
  by_cases hidle : s.inflight = none
  · obtain ⟨i, -, -, haccept⟩ | ⟨-, hreject⟩ := commandWrite_idle hidle v
    · exact ⟨_, haccept⟩
    · exact ⟨_, hreject⟩
  · exact ⟨_, commandWrite_busy hidle v⟩

theorem hostEvent_exists_next (s : State) (op : HostOp) : ∃ t, hostEvent s op = .next t := by
  cases op with
  | read a => exact ⟨_, rfl⟩
  | write a v =>
    by_cases hloc : locate s.cfg a = .cmd
    · obtain ⟨t, hw⟩ := commandWrite_exists_next (v % s.cfg.bound) s
      exact ⟨t, (hostWrite_cmd hloc v).trans hw⟩
    · exact ⟨_, hostWrite_of_ne_cmd rfl hloc v⟩
  | wait => exact ⟨_, rfl⟩
  | reset => exact ⟨_, rfl⟩

/-! ## Progress -/

/-- Settles O50: a host operation fails in no state (`hostEvent_exists_next`), and the completion step does not fail here
because the invariant keeps the operands of the command in flight validated (`step_completes`). -/
theorem noEventFails : Obligations.NoEventFails := by
  intro s h
  obtain ⟨-, -, hev⟩ | ⟨op, rest, -, -, hev⟩ | ⟨op, rest, later, -, -, -, hev⟩ | ⟨i, hi, hturn, -⟩ := nextEvent_cases s
  · exact ⟨s, hev⟩
  · obtain ⟨t, ht⟩ := hostEvent_exists_next { s with host := rest } op
    exact ⟨t, hev.trans ht⟩
  · obtain ⟨t, ht⟩ := hostEvent_exists_next { s with host := rest, turns := later } op
    exact ⟨t, hev.trans ht⟩
  · exact ⟨_, step_completes hi (h.inFlightValid i hi) hturn⟩

end Sys2Proof.Machine

/-! # Reset, and the hazards of a command in flight (70_reset_and_hazards.md) -/

namespace Sys2Proof.Machine

/-! ## Hazards: what is dropped while a command is in flight (R240, R241) -/

/-- Settles O41: these addresses name operands (`isOperand_locate`), and a busy block drops an operand's write. -/
theorem operandWriteDroppedWhileBusy : Obligations.OperandWriteDroppedWhileBusy :=
  fun _ _ v hbusy hcap ha => hostWrite_operand_busy hbusy (isOperand_locate hcap ha) v

/-- Settles O15: every command is the shared operation `runCommand`, whose last case this is. -/
theorem commandDroppedWhileOtherInFlight : Obligations.CommandDroppedWhileOtherInFlight := by
  intro s i j hj hne
  rw [exec_eq]
  exact runCommand_dropped hj hne

/-- Settles O42: the write reaches CMD, and a busy block drops it before it looks at the word. -/
theorem commandWriteDroppedWhileBusy : Obligations.CommandWriteDroppedWhileBusy := by
  intro s v hbusy
  rw [hostEvent_cmdAddr]
  exact commandWrite_busy hbusy _

/-! ## The reset event (R230, R231) -/

/-- The reset event leaves no SEQ entry written, so each reads as its draw of that reset (R230; log 6). -/
theorem seqRead_applyReset (s : State) (k : Nat) :
    seqRead (applyReset s) k = Config.seqDraw (s.resets + 1) k % s.cfg.bound := rfl

@[simp] theorem statusWord_applyReset (s : State) : statusWord (applyReset s) = 0 := rfl

/-- Settles O45: the registers by the field lemmas of `applyReset`, SEQ by `seqRead_applyReset`. -/
theorem resetSetsEveryRegister : Obligations.ResetSetsEveryRegister := by
  intro s
  refine ⟨applyReset s, rfl, ?_⟩
  simp [seqRead_applyReset]

/-! ## The state right after reset (R230, R235) -/

theorem reset_len_ne_two_pow : ¬∃ k, State.reset.len = 2 ^ k := fun ⟨k, hk⟩ => (Nat.two_pow_pos k).ne hk

/-- Settles O47: MOD is 0, so MODPOW's rejection (O12) applies; LEN is 0 and no power of two, so the first rejection of
each transform command (O13, O14) does. -/
theorem resetRejectsEveryCommand : Obligations.ResetRejectsEveryCommand := by
  obtain ⟨-, modpowRejected, -⟩ := modpowCommand
  obtain ⟨-, precomputeRejected, -⟩ := precomputeRootsCommand
  obtain ⟨-, transformRejected, -⟩ := nttTransformCommand
  exact ⟨modpowRejected State.reset rfl (by decide), precomputeRejected State.reset rfl reset_len_ne_two_pow,
    transformRejected State.reset rfl reset_len_ne_two_pow⟩

theorem rootRead_reset (i : Nat) : rootRead State.reset i = 0 :=
  (List.getD_eq_getElem?_getD ..).trans (List.getElem?_getD_replicate_default_eq 0 10 i)

/-- Settles O48: ROOT above NBITS by `rootRead_reset`, SEQ because no entry is listed; nothing is in flight, and the rest
is evaluated. -/
theorem resetMeetsInvariant : Obligations.ResetMeetsInvariant where
  params := by decide
  regs := by decide
  rootLength := rfl
  rootFits := by decide
  nbitsRange := by decide
  rootAbove := fun i _ => rootRead_reset i
  seqForm := reset_seq_wf
  seqFits := nofun
  doneOrErr := by decide
  errHasCode := by decide
  errRaised := by decide
  busyClear := by decide
  inFlightValid := nofun

end Sys2Proof.Machine
